-- ==== Sys2Proof/Word.lean ====
section
/-! DEFINITION. The word types of the spec (00_scope R9): nothing in the block is signed. -/

namespace Sys2Proof

/-- A byte, 0x00..0xFF (R9). -/
abbrev Byte := BitVec 8

/-- The identifier word, `ID_WORD_W` = 32 bits (R8, R150). -/
abbrev IdWord := BitVec 32

/-- A standard identifier, `ID_STD_W` = 11 bits (R8). -/
abbrev StdId := BitVec 11

/-- A plain identifier `id29`, `ID_EXT_W` = 29 bits (R8). -/
abbrev ExtId := BitVec 29

end Sys2Proof
end

