-- ==== Sys2Proof/Config.lean ====
section
/-! DEFINITION. The implementation parameters of 00_scope R8 and the register addresses of 10_state R30, each at the
default the spec gives it, and the free values (opaque: nothing can be proved of what they are).
The OPEN parameters of the host sequences are arguments of Machine/HostSequences.lean, as R8 says.
PRESUMED, log entry 11: the defaults the spec itself marks as general knowledge. -/

namespace Sys2Proof

/-- `OPC_RESET` (R8, R86). -/
abbrev Config.opcReset : Byte := 0xC0
/-- `OPC_READ` (R8, R86). -/
abbrev Config.opcRead : Byte := 0x03
/-- `OPC_WRITE` (R8, R86). -/
abbrev Config.opcWrite : Byte := 0x02
/-- `OPC_BITMOD` (R8, R86). -/
abbrev Config.opcBitmod : Byte := 0x05
/-- `OPC_READSTATUS` (R8, R86). -/
abbrev Config.opcReadStatus : Byte := 0xA0
/-- `OPC_RTS` base, `10000ttt` (R8, R86); refused. -/
abbrev Config.opcRts : Byte := 0x80
/-- `OPC_LOADTX` base, `01000abc` (R8, R86); refused. -/
abbrev Config.opcLoadtx : Byte := 0x40
/-- `OPC_READRX` base, `10010nm0` (R8, R86); refused. -/
abbrev Config.opcReadrx : Byte := 0x90

/-- `FILL`, the filler byte of the read phases (R8, D3). -/
abbrev Config.fill : Byte := 0x00
/-- `MAX_DATA`, most data or filler bytes in one READ or WRITE (R8, D5). -/
abbrev Config.maxData : Nat := 14
/-- `HDR_LEN`, header bytes read per receive (R8). -/
abbrev Config.hdrLen : Nat := 5
/-- `MAX_LEN`, the largest admitted length (R8). -/
abbrev Config.maxLen : Nat := 8
/-- `DLC_MASK` (R8, R93). -/
abbrev Config.dlcMask : Byte := 0x0F
/-- `EXT_FLAG_BIT`, of the identifier word (R8, D8). -/
abbrev Config.extFlagBit : Nat := 31
/-- `RTR_FLAG_BIT`, of the identifier word (R8, D8). -/
abbrev Config.rtrFlagBit : Nat := 30
/-- `IDE_BIT`, of header byte 1 (R8, R92, D9). -/
abbrev Config.ideBit : Nat := 3
/-- `RTR_CTRL_BIT`, of the receive-buffer control byte (R8, R34, D14). -/
abbrev Config.rtrCtrlBit : Nat := 3
/-- `NUM_FILTERS` (R8). -/
abbrev Config.numFilters : Nat := 6
/-- `NUM_MASKS` (R8). -/
abbrev Config.numMasks : Nat := 2

/-- Register addresses the host uses (R30, D20). -/
abbrev Config.canstat : Byte := 0x0E
abbrev Config.canctrl : Byte := 0x0F
abbrev Config.cnf3 : Byte := 0x28
abbrev Config.cnf2 : Byte := 0x29
abbrev Config.cnf1 : Byte := 0x2A
abbrev Config.canintf : Byte := 0x2C
abbrev Config.rxb0ctrl : Byte := 0x60
abbrev Config.rxb0sidh : Byte := 0x61
abbrev Config.rxb0d0 : Byte := 0x66
abbrev Config.rxb1ctrl : Byte := 0x70
abbrev Config.rxb1sidh : Byte := 0x71
abbrev Config.rxb1d0 : Byte := 0x76
/-- `RXF0SIDH`..`RXF5SIDH`, in slot order (R30, D32). -/
abbrev Config.filterBases : List Byte := [0x00, 0x04, 0x08, 0x10, 0x14, 0x18]
/-- `RXM0SIDH`, `RXM1SIDH` (R30, D32). -/
abbrev Config.maskBases : List Byte := [0x20, 0x24]
/-- The mode field, bits 7:5 of CANCTRL and CANSTAT (R31, R32, D21). -/
abbrev Config.modeMask : Byte := 0xE0
/-- The receive flag of buffer 0, resp. 1, in CANINTF (R33, D23). -/
abbrev Config.rx0Flag : Byte := 0x01
abbrev Config.rx1Flag : Byte := 0x02

/-- FREE VALUE (DESIGN CHOICE, log entry 2): the third agent's answer to the exchange that sends these bytes, when no
answer stands in State; none is a transport failure. The index is State's `draws`. -/
opaque Config.oracleReply : Nat → List Byte → Option (List Byte)

/-- FREE VALUE (DESIGN CHOICE, log entry 6): the oracle value of the reference chip's register at an address (R60, R261),
from one loss of the chip's contents (reset, RESET, a failed exchange) to the next. The first index says which loss. -/
opaque Config.freeRegister : Nat → Nat → Byte

/-- FREE VALUE (DEDUCED, log entry 7): where the chip's address pointer stands after a RESET or a failed exchange (R39, R231). -/
opaque Config.freePointer : Nat → Byte

/-- OPEN parameter `ADDR_WRAP` (R8, D19; log entry 8): the register that a pointer position past 0xFF reaches, if any. -/
opaque Config.addrWrap : Nat → Option Byte

end Sys2Proof
end

