-- ==== Sys2Proof/Syntax.lean ====
section
/-! DEFINITION. The block's operations: one constructor for each row of spec/opcode_table.json, with the operands of
10_state R24 (DESIGN CHOICE on their types, log entry 12). -/

namespace Sys2Proof

inductive Instr where
  /-- RESET (R120). -/
  | reset
  /-- RDSTAT, READ-STATUS (R122). -/
  | rdstat
  /-- READ1, one register (R124; pseudo-instruction of R96). -/
  | read1 (addr : Byte)
  /-- READ of n registers (R126); n is an integer, as R126's check of n < 0 asks. -/
  | read (addr : Byte) (n : Int)
  /-- WRITE1, one register (R128; pseudo-instruction of R96). -/
  | write1 (addr value : Byte)
  /-- WRITE of consecutive registers (R130). -/
  | write (addr : Byte) (values : List Byte)
  /-- BITMOD, BIT-MODIFY (R132). -/
  | bitmod (addr mask data : Byte)
  /-- RTS, refused (R140); t has one bit for each transmit buffer (R86). -/
  | rts (t : BitVec 3)
  /-- LOADTX, refused (R140); abc is 0..5 (R86). -/
  | loadtx (abc : BitVec 3)
  /-- READRX, refused (R140); nm are the two operand bits (R86). -/
  | readrx (nm : BitVec 2)
  /-- DECID (R152); a header of another length than 5 is refused (R235). -/
  | decid (hdr : List Byte)
  /-- DECLEN (R156). -/
  | declen (b : Byte)
  /-- CHKLEN (R158); a `len` above 15 is refused (R235). -/
  | chklen (len : Byte)
  /-- APPLYRTR (R160). -/
  | applyrtr (idw : IdWord) (ctrl : Byte)
  /-- ENCID with ext = 0 (R162); id is a non-negative integer. -/
  | encidStd (id : Nat)
  /-- ENCID with ext = 1 (R164). -/
  | encidExt (id : Nat)
  /-- The reserved selector 0xD, refused (R89, R140). -/
  | reservedD
  /-- The reserved selectors 0xE (low = false) and 0xF (low = true), refused (R89, R140). -/
  | reservedEF (low : Bool)
  deriving DecidableEq, Repr

end Sys2Proof
end

