-- ==== Sys2Proof/WellFormed.lean ====
section
/-! DEFINITION. Which operations a request can carry: the operands that the request's words have room for. A request
that the block refuses (a burst too long, an identifier out of range) is well formed: it reaches the block, which refuses it. -/

namespace Sys2Proof

/-- `loadtx`'s field is 0b000..0b101 (R86), a READ's count is shown by as many filler bytes (R83), and ENCID's identifier
travels in four bytes (log entry 1). -/
def Instr.wellFormed : Instr → Bool
  | .read _ n => decide (0 ≤ n)
  | .loadtx abc => decide (abc.toNat ≤ 5)
  | .encidStd id => decide (id < 2 ^ 32)
  | .encidExt id => decide (id < 2 ^ 32)
  | .reset => true
  | .rdstat => true
  | .read1 _ => true
  | .write1 _ _ => true
  | .write _ _ => true
  | .bitmod _ _ _ => true
  | .rts _ => true
  | .readrx _ => true
  | .decid _ => true
  | .declen _ => true
  | .chklen _ => true
  | .applyrtr _ _ => true
  | .reservedD => true
  | .reservedEF _ => true

end Sys2Proof
end

