-- ==== Sys2Proof/Decode.lean ====
section
/-! DEFINITION. The words of the operations. A request is a byte list whose end is known (R87): for a chip command the
bytes of its exchange, formats F-RESET, F-RS, F-READ, F-WRITE and F-BITMOD (30_encoding R80-R85); for a codec operation
its selector (R89) and then its operand bytes. The first bytes of the two kinds never meet: opcode bytes of R86 lie outside
0x08..0x0F. DESIGN CHOICE, log entry 1: the spec gives the request port no layout. -/

namespace Sys2Proof

/-- Why a byte list is no request (log entry 14). -/
inductive DecodeError where
  /-- No byte at all. -/
  | empty
  /-- The first byte is neither an opcode of R86 nor a selector of a codec or reserved row of R89. -/
  | unknownFirstByte (b : Byte)
  /-- The first byte is known, but the rest has not the layout of its format. -/
  | badLayout (b : Byte)
  deriving DecidableEq, Repr

/-! ### The formats of R80 -/

/-- F-RESET (R81). -/
def fReset : List Byte := [Config.opcReset]
/-- F-RS (R82). -/
def fReadStatus : List Byte := [Config.opcReadStatus, Config.fill]
/-- F-READ (R83). -/
def fRead (addr : Byte) (n : Nat) : List Byte := Config.opcRead :: addr :: List.replicate n Config.fill
/-- F-WRITE (R84). -/
def fWrite (addr : Byte) (data : List Byte) : List Byte := Config.opcWrite :: addr :: data
/-- F-BITMOD (R85). -/
def fBitmod (addr mask data : Byte) : List Byte := [Config.opcBitmod, addr, mask, data]

/-! ### Selectors of R89 -/

/-- The 4-bit selector of an operation (R89). -/
def selector : Instr → BitVec 4
  | .reset => 0x0
  | .rdstat => 0x1
  | .read1 _ => 0x2
  | .read _ _ => 0x2
  | .write1 _ _ => 0x3
  | .write _ _ => 0x3
  | .bitmod _ _ _ => 0x4
  | .rts _ => 0x5
  | .loadtx _ => 0x6
  | .readrx _ => 0x7
  | .decid _ => 0x8
  | .declen _ => 0x9
  | .chklen _ => 0xA
  | .applyrtr _ _ => 0xB
  | .encidStd _ => 0xC
  | .encidExt _ => 0xC
  | .reservedD => 0xD
  | .reservedEF low => if low then 0xF else 0xE

/-- Four bytes, most significant first (DESIGN CHOICE, log entry 1). -/
def bytesOfWord (w : BitVec 32) : List Byte :=
  [w.extractLsb' 24 8, w.extractLsb' 16 8, w.extractLsb' 8 8, w.extractLsb' 0 8]

/-- The word of four bytes, most significant first. -/
def wordOfBytes (a b c d : Byte) : BitVec 32 := a ++ b ++ c ++ d

/-! ### The decoder -/

/-- F-READ after its opcode: the address and only filler bytes (R83); one filler byte is `readRegister` (R24, R124;
DESIGN CHOICE, log entry 10). -/
def decodeRead : List Byte → Except DecodeError Instr
  | [] => .error (.badLayout Config.opcRead)
  | addr :: fillers =>
    if fillers.all (· == Config.fill) then
      .ok (if fillers.length = 1 then .read1 addr else .read addr fillers.length)
    else .error (.badLayout Config.opcRead)

/-- F-WRITE after its opcode (R84); one data byte is `setRegister` (R24, R128; DESIGN CHOICE, log entry 10). -/
def decodeWrite : List Byte → Except DecodeError Instr
  | [] => .error (.badLayout Config.opcWrite)
  | [addr, v] => .ok (.write1 addr v)
  | addr :: values => .ok (.write addr values)

/-- Bare first bytes: F-RESET, the refused commands and the reserved selectors. -/
def decodeBare (b : Byte) (i : Instr) : List Byte → Except DecodeError Instr
  | [] => .ok i
  | _ :: _ => .error (.badLayout b)

/-- F-RS after its opcode (R82). -/
def decodeReadStatus : List Byte → Except DecodeError Instr
  | [f] => if f = Config.fill then .ok .rdstat else .error (.badLayout Config.opcReadStatus)
  | _ => .error (.badLayout Config.opcReadStatus)

/-- F-BITMOD after its opcode (R85). -/
def decodeBitmod : List Byte → Except DecodeError Instr
  | [addr, mask, data] => .ok (.bitmod addr mask data)
  | _ => .error (.badLayout Config.opcBitmod)

/-- DECLEN and CHKLEN: one operand byte. -/
def decodeOneByte (b : Byte) (f : Byte → Instr) : List Byte → Except DecodeError Instr
  | [x] => .ok (f x)
  | _ => .error (.badLayout b)

/-- APPLYRTR: the identifier word, then the control byte. -/
def decodeApplyrtr : List Byte → Except DecodeError Instr
  | [a, b, c, d, ctrl] => .ok (.applyrtr (wordOfBytes a b c d) ctrl)
  | _ => .error (.badLayout 0x0B)

/-- ENCID: the operand `ext` (0 or 1), then the identifier. -/
def decodeEncid : List Byte → Except DecodeError Instr
  | [ext, a, b, c, d] =>
    if ext = 0 then .ok (.encidStd (wordOfBytes a b c d).toNat)
    else if ext = 1 then .ok (.encidExt (wordOfBytes a b c d).toNat)
    else .error (.badLayout 0x0C)
  | _ => .error (.badLayout 0x0C)

/-- The codec and reserved rows of spec/opcode_table.json, matched on the selector (R89). A byte of no row is refused,
never taken for a neighbour (R88). -/
def decodeSelectorRow (b : Byte) (rest : List Byte) : Except DecodeError Instr :=
  if b = 0x08 then .ok (.decid rest)
  else if b = 0x09 then decodeOneByte b .declen rest
  else if b = 0x0A then decodeOneByte b .chklen rest
  else if b = 0x0B then decodeApplyrtr rest
  else if b = 0x0C then decodeEncid rest
  else if b = 0x0D then decodeBare b .reservedD rest
  else if b = 0x0E then decodeBare b (.reservedEF false) rest
  else if b = 0x0F then decodeBare b (.reservedEF true) rest
  else .error (.unknownFirstByte b)

/-- The rows of the refused commands (R86): `10000ttt`, `01000abc` with abc up to 0b101, `10010nm0`. -/
def decodeRefusedRow (b : Byte) (rest : List Byte) : Except DecodeError Instr :=
  if b &&& 0xF8 = Config.opcRts then decodeBare b (.rts (b.extractLsb' 0 3)) rest
  else if b &&& 0xF8 = Config.opcLoadtx ∧ (b.extractLsb' 0 3).toNat ≤ 5 then
    decodeBare b (.loadtx (b.extractLsb' 0 3)) rest
  else if b &&& 0xF9 = Config.opcReadrx then decodeBare b (.readrx (b.extractLsb' 1 2)) rest
  else decodeSelectorRow b rest

/-- The rows of spec/opcode_table.json: the first byte picks the row, by the row's match and mask. -/
def decodeRow (b : Byte) (rest : List Byte) : Except DecodeError Instr :=
  if b = Config.opcReset then decodeBare b .reset rest
  else if b = Config.opcReadStatus then decodeReadStatus rest
  else if b = Config.opcRead then decodeRead rest
  else if b = Config.opcWrite then decodeWrite rest
  else if b = Config.opcBitmod then decodeBitmod rest
  else decodeRefusedRow b rest

/-- The operation a request asks for; total, and a byte list that is no request is refused by name. -/
def decode : List Byte → Except DecodeError Instr
  | [] => .error .empty
  | b :: rest => decodeRow b rest

/-! ### The encoder -/

/-- The words of an operation (R80-R86, R89). A READ count below 0 has no words (R24's port carries 0..MAX_DATA, and
`Instr.wellFormed` refuses it); it is given those of count 0. An ENCID identifier of 2^32 and more has no words either (its
four bytes are log entry 1's); it is given those of its low 32 bits. (DESIGN CHOICE, log entry 12.) -/
def encode : Instr → List Byte
  | .reset => fReset
  | .rdstat => fReadStatus
  | .read1 addr => fRead addr 1
  | .read addr n => fRead addr n.toNat
  | .write1 addr v => fWrite addr [v]
  | .write addr values => fWrite addr values
  | .bitmod addr mask data => fBitmod addr mask data
  | .rts t => [Config.opcRts ||| t.zeroExtend 8]
  | .loadtx abc => [Config.opcLoadtx ||| abc.zeroExtend 8]
  | .readrx nm => [Config.opcReadrx ||| (nm.zeroExtend 8 <<< 1)]
  | .decid hdr => 0x08 :: hdr
  | .declen b => [0x09, b]
  | .chklen len => [0x0A, len]
  | .applyrtr idw ctrl => 0x0B :: (bytesOfWord idw ++ [ctrl])
  | .encidStd id => 0x0C :: 0x00 :: bytesOfWord (BitVec.ofNat 32 id)
  | .encidExt id => 0x0C :: 0x01 :: bytesOfWord (BitVec.ofNat 32 id)
  | .reservedD => [0x0D]
  | .reservedEF low => [if low then 0x0F else 0x0E]

/-- The one spelling of an operation whose words have two: READ and WRITE of one byte are `readRegister` and
`setRegister` (R24, R96; DESIGN CHOICE, log entry 10). -/
def canonical : Instr → Instr
  | .read addr n => if n = 1 then .read1 addr else .read addr n
  | .write addr values =>
    match values with
    | [v] => .write1 addr v
    | _ => .write addr values
  | .reset => .reset
  | .rdstat => .rdstat
  | .read1 addr => .read1 addr
  | .write1 addr v => .write1 addr v
  | .bitmod addr mask data => .bitmod addr mask data
  | .rts t => .rts t
  | .loadtx abc => .loadtx abc
  | .readrx nm => .readrx nm
  | .decid hdr => .decid hdr
  | .declen b => .declen b
  | .chklen len => .chklen len
  | .applyrtr idw ctrl => .applyrtr idw ctrl
  | .encidStd id => .encidStd id
  | .encidExt id => .encidExt id
  | .reservedD => .reservedD
  | .reservedEF low => .reservedEF low

/-- The expansion of the pseudo-instructions READ1 and WRITE1 (R96). -/
def expandPseudo : Instr → Instr
  | .read1 addr => .read addr 1
  | .write1 addr v => .write addr [v]
  | i => i

/-! ### Words as spec/opcode_table.json numbers them -/

/-- How many bytes a request with this first byte has at most: the lengths of the table, `2 + MAX_DATA` for READ and WRITE. -/
def longestRequest (b : Byte) : Nat :=
  if b = Config.opcReadStatus then 2
  else if b = Config.opcRead ∨ b = Config.opcWrite then 2 + Config.maxData
  else if b = Config.opcBitmod then 4
  else if b = 0x08 then 1 + Config.hdrLen
  else if b = 0x09 ∨ b = 0x0A then 2
  else if b = 0x0B ∨ b = 0x0C then 6
  else 1

/-- The bytes of the request whose table bits are w: as many as w has when it carries more than the first byte, else the
first byte and zeros up to the longest request of its row (DESIGN CHOICE, log entry 15). -/
def tableBytes (nbits w : Nat) : List Byte :=
  let v := w % 2 ^ nbits
  let b0 : Byte := BitVec.ofNat 8 v
  let len := if nbits ≤ 8 then longestRequest b0
    else if b0 = Config.opcRead ∨ b0 = Config.opcWrite then nbits / 8
    else max (nbits / 8) (longestRequest b0)
  (List.range len).map fun i => BitVec.ofNat 8 (v >>> (8 * i))

/-- The operation the decoder reads from a word of spec/opcode_table.json. -/
def decodeTableWord (nbits w : Nat) : Option Instr := (decode (tableBytes nbits w)).toOption

end Sys2Proof
end

