-- ==== Sys2Proof/Machine/State.lean ====
section
/-! DEFINITION. The machine's state: the record S of 10_state R23, the request and result ports (R24, R25), the third
agent's coming answers (R7) and the reference chip of 20_memory R60. -/

namespace Sys2Proof.Machine

/-- What the Transport Adapter answers (R55, R112): reply bytes, or `FAILED`. -/
inductive Reply where
  | failed
  | bytes (rx : List Byte)
  deriving DecidableEq, Repr

/-- One entry of `S.log` (R23). -/
structure Exchange where
  tx : List Byte
  rx : Reply
  deriving DecidableEq, Repr

/-- The values of `S.fault` beside `none` (R23). -/
inductive FaultMark where
  | transportFailure
  deriving DecidableEq, Repr

/-- Error outcomes, the block's and the host's (R230-R233). -/
inductive ErrorOutcome where
  | transportFailure
  | malformed
  | noMessage
  | unsupported
  | modeTimeout
  | invalidIndex
  deriving DecidableEq, Repr

/-- Refusal reasons (R235). -/
inductive RefusalReason where
  | burstTooLong
  | emptyWrite
  | commandNotInScope
  | idOutOfRange
  | operandRange
  | headerLength
  deriving DecidableEq, Repr

/-- The value of an `ok` outcome (R25). -/
inductive Value where
  /-- RESET, WRITE and BITMOD give none. -/
  | unit
  /-- READ-STATUS and READ1 give a byte. -/
  | byte (b : Byte)
  /-- READ gives n bytes, ENCID four. -/
  | bytes (bs : List Byte)
  /-- DECID gives `(id29, ext, idw)`. -/
  | ident (id29 : ExtId) (ext : Bool) (idw : IdWord)
  /-- DECLEN and CHKLEN give a 4-bit length. -/
  | len (n : BitVec 4)
  /-- APPLYRTR gives a 32-bit word. -/
  | word (w : IdWord)
  deriving DecidableEq, Repr

/-- One outcome on the result port (R25). -/
inductive OpResult where
  | ok (v : Value)
  | error (e : ErrorOutcome)
  | refusal (r : RefusalReason)
  deriving DecidableEq, Repr

/-- What was stored to the chip's registers: (address, byte) pairs, addresses rising. A register not listed holds its
oracle value (R60, R261; DESIGN CHOICE, log entry 6), which `Chip.register` supplies. -/
abbrev Memory := List Host.Cell

/-- The chip-side state the block exposes (10_state section 4) as the reference chip of R60. No result of the block reads
it (R7, R29): it is not a claim about the chip (R60; DESIGN CHOICE, log entry 5). -/
structure Chip where
  /-- What was stored to the register array of R60 since its contents were last lost. -/
  regs : Memory
  /-- The model's own: which oracle values the other registers hold, the index of that loss (log entry 6). -/
  epoch : Nat
  /-- The address pointer (R28); above 0xFF after a burst past the end. -/
  pointer : Nat
  deriving DecidableEq, Repr

structure State where
  /-- The operations waiting at the request port, oldest first (R22, R24). -/
  requests : List (List Byte)
  /-- The step index (R22). -/
  k : Nat
  /-- The third agent's answers to the coming exchanges, oldest first (R7, R55). -/
  replies : List Reply
  /-- The model's own: the index of the next free value (log entry 2). -/
  draws : Nat
  /-- `S.log` (R23). -/
  log : List Exchange
  /-- `S.fault` (R23). -/
  fault : Option FaultMark
  /-- `S.refused` (R23). -/
  refused : Option RefusalReason
  /-- The result port: the outcome of the last operation (R25). -/
  result : Option OpResult
  /-- The reference chip (R28-R30, R60). -/
  chip : Chip
  deriving DecidableEq, Repr

/-- The block has no traps (60_exceptions, R239): no step ends in a fault. An error outcome or a refusal of the block is
the operation's result, and the step goes on to a next state. -/
inductive Fault where
  deriving DecidableEq, Repr

/-- What the model gives no meaning. -/
inductive Refusal where
  /-- Raised by an arm of `exec` without a meaning: no arm of this model. Safe. -/
  | notModelled (mnemonic : String)
  /-- Raised by `step` for bytes at the request port that are no request of the block (R88; log entry 14). Safe: the
  request port of R89 has no such request. -/
  | undecodable (why : DecodeError)
  deriving DecidableEq, Repr

/-- Right after reset (R39, R260): the record empty, no outcome yet, no operation and no answer waiting, every chip
register at an oracle value. DESIGN CHOICE, log entries 1, 2, 6, 9 and 16, for the fields R39 gives no value. -/
def State.reset : State where
  requests := []
  k := 0
  replies := []
  draws := 0
  log := []
  fault := none
  refused := none
  result := none
  chip := ⟨[], 0, 0⟩

end Sys2Proof.Machine
end

