-- ==== Sys2Proof/Machine/Operands.lean ====
section
/-! DEFINITION. Operand assembly: the identifier and length fields in the header bytes (30_encoding R90-R94) and the
operand range checks (R126, R130, R142, R235). -/

namespace Sys2Proof.Machine

/-- The standard identifier in H0 and H1 (R90). -/
def stdId (h0 h1 : Byte) : StdId := (h0.zeroExtend 11 <<< 3) ||| (h1.extractLsb' 5 3).zeroExtend 11

/-- The extended identifier in H0..H3 (R91). -/
def extId (h0 h1 h2 h3 : Byte) : ExtId :=
  ((stdId h0 h1).zeroExtend 29 <<< 18) ||| ((h1.extractLsb' 0 2).zeroExtend 29 <<< 16) |||
    (h2.zeroExtend 29 <<< 8) ||| h3.zeroExtend 29

/-- The length field H4[3:0] (R93): `b & DLC_MASK`, four bits (R156). -/
def lengthField (b : Byte) : BitVec 4 := (b &&& Config.dlcMask).truncate 4

/-- The standard layout of R94, of an identifier below 2^11 (R162). -/
def encodeStd (id : Nat) : List Byte :=
  [BitVec.ofNat 8 (id >>> 3), BitVec.ofNat 8 (id &&& 0x7) <<< 5, 0x00, 0x00]

/-- The extended layout of R94, of an identifier below 2^29 (R164). -/
def encodeExt (id : Nat) : List Byte :=
  [BitVec.ofNat 8 (id >>> 21),
   (BitVec.ofNat 8 ((id >>> 18) &&& 0x7) <<< 5) ||| ((1 : Byte) <<< Config.ideBit) ||| BitVec.ofNat 8 ((id >>> 16) &&& 0x3),
   BitVec.ofNat 8 (id >>> 8), BitVec.ofNat 8 id]

/-- A READ count outside 0..MAX_DATA (R126). -/
def countOutOfRange (n : Int) : Bool := decide (n < 0) || decide ((Config.maxData : Int) < n)

/-- Why a WRITE of these values is refused, if it is: EmptyWrite before BurstTooLong (R130, R236). -/
def writeRefusal (values : List Byte) : Option RefusalReason :=
  if values.length = 0 then some .emptyWrite
  else if Config.maxData < values.length then some .burstTooLong
  else none

end Sys2Proof.Machine
end

