-- ==== Sys2Proof/Machine/Flags.lean ====
section
/-! DEFINITION. The flags: those of the identifier word (R26, R150), of the header (R92), of the control byte (R34), of
the status byte (R27), and the mode field (R31, R32). The block has no condition codes (R26). -/

namespace Sys2Proof.Machine

/-- The extended-format flag H1[IDE_BIT] (R92). -/
def headerExt (h1 : Byte) : Bool := h1.getLsbD Config.ideBit

/-- The remote-request bit of a receive-buffer control byte (R34). -/
def ctrlRtr (ctrl : Byte) : Bool := ctrl.getLsbD Config.rtrCtrlBit

/-- A flag at bit n of the identifier word. -/
def wordFlag (f : Bool) (n : Nat) : IdWord := if f then (1 : IdWord) <<< n else 0

/-- The identifier word (R150). -/
def identWord (id29 : ExtId) (ext rtr : Bool) : IdWord :=
  id29.zeroExtend 32 ||| wordFlag ext Config.extFlagBit ||| wordFlag rtr Config.rtrFlagBit

/-- ORs the remote-request flag into an identifier word when the control byte has it (R160). -/
def applyRtr (idw : IdWord) (ctrl : Byte) : IdWord :=
  if ctrlRtr ctrl then idw ||| ((1 : IdWord) <<< Config.rtrFlagBit) else idw

/-- The receive flag of buffer 0, resp. 1, in the status byte (R27, D22). -/
def statusRx0 (st : Byte) : Bool := st.getLsbD 0
def statusRx1 (st : Byte) : Bool := st.getLsbD 1

end Sys2Proof.Machine
end

