-- ==== Sys2Proof/Machine/Ops.lean ====
section
/-! DEFINITION. The shared operations: the updates of the state, the chip's registers and pointer, the exchange (R112)
and the two ways an operation ends otherwise than `ok` (R230, R231, R235, R239), which are what this block has in the
place of an exception entry. There is no return from one (R240). -/

namespace Sys2Proof.Machine

/-! ### Chip registers (R50, R60) -/

/-- What was stored to a register; nothing for one not listed. -/
def Memory.read : Memory → Nat → Option Byte
  | [], _ => none
  | (a', b') :: m, a => if a = a' then some b' else Memory.read m a

/-- `R[a] <- b`, in the canonical form. -/
def Memory.write : Memory → Nat → Byte → Memory
  | [], a, b => [(a, b)]
  | (a', b') :: m, a, b =>
    if a < a' then (a, b) :: (a', b') :: m
    else if a = a' then (a, b) :: m
    else (a', b') :: Memory.write m a b

/-- Addresses strictly rising from `lo` on, all in the 8-bit space (R50). -/
def Memory.wfFrom : Nat → Memory → Bool
  | _, [] => true
  | lo, (a, _) :: m => decide (lo ≤ a) && decide (a < 256) && Memory.wfFrom (a + 1) m

/-- The canonical form. The value of an unlisted register is free, so no entry can be seen to repeat it (log entry 6). -/
def Memory.wf (m : Memory) : Bool := Memory.wfFrom 0 m

/-- `R[a]` of R60: what was stored there, else the register's oracle value. -/
def Chip.register (c : Chip) (a : Nat) : Byte := (Memory.read c.regs a).getD (Config.freeRegister c.epoch a)

/-- The register a pointer position reaches: itself within the space (R53), `ADDR_WRAP` past it (R28, R8). -/
def registerAt (p : Nat) : Option Nat := if p ≤ 0xFF then some p else (Config.addrWrap p).map BitVec.toNat

/-- `R[register] <- b`, where the position reaches a register. -/
def storeAt (m : Memory) (p : Nat) (b : Byte) : Memory :=
  match registerAt p with
  | some a => Memory.write m a b
  | none => m

/-- The data phase of a WRITE: each byte to the pointer's register, the pointer one on (R28, R53). -/
def Chip.storeBytes : Chip → List Byte → Chip
  | c, [] => c
  | c, b :: bs => Chip.storeBytes ⟨storeAt c.regs c.pointer b, c.epoch, c.pointer + 1⟩ bs

/-- A WRITE loads the pointer and stores (R28, R60 `MemWrite`). -/
def Chip.write (c : Chip) (addr : Byte) (data : List Byte) : Chip :=
  Chip.storeBytes ⟨c.regs, c.epoch, addr.toNat⟩ data

/-- A READ of n bytes loads the pointer and moves it n on (R28); the registers stand. -/
def Chip.readPast (c : Chip) (addr : Byte) (n : Nat) : Chip := ⟨c.regs, c.epoch, addr.toNat + n⟩

/-- The masked value of R60: `(old & ~mask) | (data & mask)`. -/
def maskedByte (old mask data : Byte) : Byte := (old &&& ~~~mask) ||| (data &&& mask)

/-- A BIT-MODIFY (R60, R132; log entry 19). -/
def Chip.bitModify (c : Chip) (addr mask data : Byte) : Chip :=
  ⟨Memory.write c.regs addr.toNat (maskedByte (c.register addr.toNat) mask data), c.epoch, c.pointer⟩

/-- Nothing is known of the chip, after a RESET (R60, R261) and after a failed exchange (R231): every register at a new
oracle value, the pointer free (log entry 7). The index is that of the exchange. -/
def Chip.unknown (draw : Nat) : Chip := ⟨[], draw + 1, (Config.freePointer draw).toNat⟩

/-! ### Updates of the state -/

/-- The outcome goes to the result port (R25). -/
def State.answer (o : OpResult) (s : State) : State := { s with result := some o }

/-- `S.refused <- r` (R235; DEDUCED, log entry 4: a later reason replaces an earlier one). -/
def State.markRefused (r : RefusalReason) (s : State) : State := { s with refused := some r }

/-- `S.fault <- TransportFailure` (R112, R231). -/
def State.markFault (s : State) : State := { s with fault := some .transportFailure }

/-- `S.log <- S.log ++ [(tx, rx)]` (R112). -/
def State.logExchange (tx : List Byte) (rx : Reply) (s : State) : State := { s with log := s.log ++ [⟨tx, rx⟩] }

/-- The third agent's answer is used up, and the free values move on (log entry 2). -/
def State.consumeReply (s : State) : State := { s with replies := s.replies.tail, draws := s.draws + 1 }

/-- The step index one on (R22). -/
def State.countStep (s : State) : State := { s with k := s.k + 1 }

/-- The reference chip after an exchange. -/
def State.setChip (c : Chip) (s : State) : State := { s with chip := c }

/-! ### Outcomes -/

/-- `return v` (R11). -/
def finishOk (v : Value) (s : State) : Host.Outcome State Fault Refusal := .next (s.answer (.ok v))

/-- `raise E` for an outcome that records nothing, `Malformed` (R11, R232). -/
def raiseError (e : ErrorOutcome) (s : State) : Host.Outcome State Fault Refusal := .next (s.answer (.error e))

/-- `refuse R` (R11, R235): nothing is sent, the reason is recorded and returned. -/
def refuse (r : RefusalReason) (s : State) : Host.Outcome State Fault Refusal :=
  .next ((s.markRefused r).answer (.refusal r))

/-! ### The exchange (R112) -/

/-- The third agent's answer to these bytes: the one that stands in State, else a free value (R7; log entry 2). -/
def oracleReply (tx : List Byte) (s : State) : Reply :=
  match s.replies with
  | r :: _ => r
  | [] =>
    match Config.oracleReply s.draws tx with
    | some rx => .bytes rx
    | none => .failed

/-- A reply of the wrong length is a transport failure (R112, D15). -/
def acceptReply (tx : List Byte) : Reply → Reply
  | .failed => .failed
  | .bytes rx => if rx.length = tx.length then .bytes rx else .failed

/-- What an exchange leaves, given the accepted reply: its log entry and the result, or the entry `(tx, FAILED)`, the
fault mark and `TransportFailure` (R112, R231; DEDUCED, log entry 3: the entry of a reply of the wrong length). A failure
drops what earlier exchanges stored, R231 taken before R190 (DEDUCED, log entry 7). -/
def finishExchange (tx : List Byte) (effect : Chip → Chip) (value : List Byte → Value) (s : State) : Reply → State
  | .bytes rx =>
    ((s.consumeReply.logExchange tx (.bytes rx)).setChip (effect s.chip)).answer (.ok (value rx))
  | .failed =>
    ((s.consumeReply.logExchange tx .failed).markFault.setChip
      (Chip.unknown s.draws)).answer (.error .transportFailure)

/-- A command operation: exactly one exchange (R110, R112, R144), its effect on the reference chip, and its value from the
reply. -/
def command (tx : List Byte) (effect : Chip → Chip) (value : List Byte → Value) (s : State) :
    Host.Outcome State Fault Refusal :=
  .next (finishExchange tx effect value s (acceptReply tx (oracleReply tx s)))

/-- Reply byte i, in a reply of the right length (R52). -/
def replyByte (i : Nat) (rx : List Byte) : Byte := rx.getD i 0

/-- Reply bytes 2 up to 2 + n (R83, C5). -/
def replySlice (n : Nat) (rx : List Byte) : List Byte := (rx.drop 2).take n

/-! ### The request port (R22, R24) -/

/-- The operation at the head of the port, and the state once it is taken: the port one on, the step index one up. -/
def takeRequest (s : State) : Option (List Byte × State) :=
  match s.requests with
  | [] => none
  | r :: rest => some (r, { s with requests := rest, k := s.k + 1 })

/-- The state with an operation placed at the head of the port. -/
def placeRequest (r : List Byte) (s : State) : State := { s with requests := r :: s.requests }

/-! ### Outcome codes (R230) -/

def errorCode : ErrorOutcome → Byte
  | .transportFailure => 0x01
  | .malformed => 0x02
  | .noMessage => 0x03
  | .unsupported => 0x04
  | .modeTimeout => 0x05
  | .invalidIndex => 0x06

def refusalCode : RefusalReason → Byte
  | .burstTooLong => 0x10
  | .emptyWrite => 0x11
  | .commandNotInScope => 0x12
  | .idOutOfRange => 0x13
  | .operandRange => 0x14
  | .headerLength => 0x15

/-- The code of an outcome (R230). -/
def outcomeCode : OpResult → Byte
  | .ok _ => 0x00
  | .error e => errorCode e
  | .refusal r => refusalCode r

end Sys2Proof.Machine
end

