-- ==== Sys2Proof/Machine/FrameCodec.lean ====
section
/-! DEFINITION. The frame codec (41_frame_codec): pure operations, no exchange. -/

namespace Sys2Proof.Machine

/-- The triple `(id29, ext, idw)` of a header (R152, C1). -/
def decodeIdentifier (h0 h1 h2 h3 : Byte) : Value :=
  let id29 := if headerExt h1 then extId h0 h1 h2 h3 else (stdId h0 h1).zeroExtend 29
  .ident id29 (headerExt h1) (identWord id29 (headerExt h1) false)

/-- DECID (R152): H4 is not read (R154); a header of another length than 5 is refused (R235). -/
def execDecid (hdr : List Byte) (s : State) : Host.Outcome State Fault Refusal :=
  match hdr with
  | [h0, h1, h2, h3, _h4] => finishOk (decodeIdentifier h0 h1 h2 h3) s
  | _ => refuse .headerLength s

/-- DECLEN (R156): never fails. -/
def execDeclen (b : Byte) (s : State) : Host.Outcome State Fault Refusal := finishOk (.len (lengthField b)) s

/-- CHKLEN (R158): above 15 is no length operand (R235), above MAX_LEN is Malformed. -/
def execChklen (len : Byte) (s : State) : Host.Outcome State Fault Refusal :=
  if 15 < len.toNat then refuse .operandRange s
  else if Config.maxLen < len.toNat then raiseError .malformed s
  else finishOk (.len (len.truncate 4)) s

/-- APPLYRTR (R160). -/
def execApplyrtr (idw : IdWord) (ctrl : Byte) (s : State) : Host.Outcome State Fault Refusal :=
  finishOk (.word (applyRtr idw ctrl)) s

/-- ENCID of a standard frame (R162, R166). -/
def execEncidStd (id : Nat) (s : State) : Host.Outcome State Fault Refusal :=
  if 2 ^ 11 ≤ id then refuse .idOutOfRange s else finishOk (.bytes (encodeStd id)) s

/-- ENCID of an extended frame (R164, R166). -/
def execEncidExt (id : Nat) (s : State) : Host.Outcome State Fault Refusal :=
  if 2 ^ 29 ≤ id then refuse .idOutOfRange s else finishOk (.bytes (encodeExt id)) s

end Sys2Proof.Machine
end

