-- ==== Sys2Proof/Machine/SpiCommands.lean ====
section
/-! DEFINITION. The SPI command encoder (40_spi_commands): the five commands, and the requests the block refuses. -/

namespace Sys2Proof.Machine

/-- RESET (R120): every register of the reference chip becomes an oracle value (R60, R261). -/
def execReset (s : State) : Host.Outcome State Fault Refusal :=
  command fReset (fun _ => Chip.unknown s.draws) (fun _ => .unit) s

/-- READ-STATUS (R122): the second reply byte. -/
def execRdstat (s : State) : Host.Outcome State Fault Refusal :=
  command fReadStatus id (fun rx => .byte (replyByte 1 rx)) s

/-- READ of one register (R124): the third reply byte. -/
def execRead1 (addr : Byte) (s : State) : Host.Outcome State Fault Refusal :=
  command (fRead addr 1) (fun c => c.readPast addr 1) (fun rx => .byte (replyByte 2 rx)) s

/-- READ of n registers (R126). -/
def execRead (addr : Byte) (n : Int) (s : State) : Host.Outcome State Fault Refusal :=
  if countOutOfRange n then refuse .burstTooLong s
  else command (fRead addr n.toNat) (fun c => c.readPast addr n.toNat) (fun rx => .bytes (replySlice n.toNat rx)) s

/-- WRITE of one register (R128). -/
def execWrite1 (addr value : Byte) (s : State) : Host.Outcome State Fault Refusal :=
  command (fWrite addr [value]) (fun c => c.write addr [value]) (fun _ => .unit) s

/-- WRITE of consecutive registers (R130). -/
def execWrite (addr : Byte) (values : List Byte) (s : State) : Host.Outcome State Fault Refusal :=
  match writeRefusal values with
  | some r => refuse r s
  | none => command (fWrite addr values) (fun c => c.write addr values) (fun _ => .unit) s

/-- BIT-MODIFY (R132): no reply byte is consulted. -/
def execBitmod (addr mask data : Byte) (s : State) : Host.Outcome State Fault Refusal :=
  command (fBitmod addr mask data) (fun c => c.bitModify addr mask data) (fun _ => .unit) s

/-- RTS, refused whatever its operand (R140). -/
def execRts (_t : BitVec 3) (s : State) : Host.Outcome State Fault Refusal := refuse .commandNotInScope s

/-- LOADTX, refused whatever its operand (R140). -/
def execLoadtx (_abc : BitVec 3) (s : State) : Host.Outcome State Fault Refusal := refuse .commandNotInScope s

/-- READRX, refused whatever its operand (R140). -/
def execReadrx (_nm : BitVec 2) (s : State) : Host.Outcome State Fault Refusal := refuse .commandNotInScope s

/-- The reserved selector 0xD, refused (R140). -/
def execReservedD (s : State) : Host.Outcome State Fault Refusal := refuse .commandNotInScope s

/-- The reserved selectors 0xE and 0xF, refused (R140). -/
def execReservedEF (_low : Bool) (s : State) : Host.Outcome State Fault Refusal := refuse .commandNotInScope s

end Sys2Proof.Machine
end

