-- ==== Sys2Proof/Machine/Dispatch.lean ====
section
/-! DEFINITION. One arm for each operation. -/

namespace Sys2Proof.Machine

def exec (i : Instr) (s : State) : Host.Outcome State Fault Refusal :=
  match i with
  | .reset => Sys2Proof.Machine.execReset s
  | .rdstat => Sys2Proof.Machine.execRdstat s
  | .read1 addr => Sys2Proof.Machine.execRead1 addr s
  | .read addr n => Sys2Proof.Machine.execRead addr n s
  | .write1 addr value => Sys2Proof.Machine.execWrite1 addr value s
  | .write addr values => Sys2Proof.Machine.execWrite addr values s
  | .bitmod addr mask data => Sys2Proof.Machine.execBitmod addr mask data s
  | .rts t => Sys2Proof.Machine.execRts t s
  | .loadtx abc => Sys2Proof.Machine.execLoadtx abc s
  | .readrx nm => Sys2Proof.Machine.execReadrx nm s
  | .decid hdr => Sys2Proof.Machine.execDecid hdr s
  | .declen b => Sys2Proof.Machine.execDeclen b s
  | .chklen len => Sys2Proof.Machine.execChklen len s
  | .applyrtr idw ctrl => Sys2Proof.Machine.execApplyrtr idw ctrl s
  | .encidStd id => Sys2Proof.Machine.execEncidStd id s
  | .encidExt id => Sys2Proof.Machine.execEncidExt id s
  | .reservedD => Sys2Proof.Machine.execReservedD s
  | .reservedEF low => Sys2Proof.Machine.execReservedEF low s

end Sys2Proof.Machine
end

