-- ==== Sys2Proof/Machine/Request.lean ====
section
/-! DEFINITION. The request port and the host's program (R22, R24; log entries 1 and 14). -/

namespace Sys2Proof.Machine

/-- The operation taken from the port, performed; bytes that are no request are refused by name (log entry 14). -/
def runRequest (r : List Byte) (s : State) : Host.Outcome State Fault Refusal :=
  match decode r with
  | .ok i => exec i s
  | .error why => .refused (.undecodable why)

/-- The host issues a list of operations (R22): each goes to the end of the port, as its words. The operations are to be
well formed: a READ count below 0 becomes READ of 0 here, and an ENCID identifier of 2^32 and more its low 32 bits, where
`exec` of the operation itself refuses each (DESIGN CHOICE, log entry 12). -/
def load (p : List Instr) (s : State) : State := { s with requests := s.requests ++ p.map encode }

end Sys2Proof.Machine
end

