-- ==== Sys2Proof/Machine/Step.lean ====
section
/-! DEFINITION. One step is one block operation (R22): it takes the next request, decodes it and performs it. With no
request waiting the block waits (DESIGN CHOICE, log entry 13). -/

namespace Sys2Proof.Machine

def step (s : State) : Host.Outcome State Fault Refusal :=
  match takeRequest s with
  | none => .next s
  | some (r, s') => runRequest r s'

/-- The state with the request of a table word at the head of the request port (log entries 1 and 15). -/
def State.withFetchWord (s : State) (nbits w : Nat) : State := placeRequest (tableBytes nbits w) s

end Sys2Proof.Machine
end

