-- ==== Sys2Proof/Machine/HostSequences.lean ====
section
/-! DEFINITION. The host sequences of 42_host_sequences: lists of block operations, each completing before the next.
Their rules bind the host, not the block (00_scope R6); they are modelled over `exec`. The OPEN parameters of R8 are
arguments: `skipEmptyRead`, `modeSwitch`, the bitrate table, and the deadline draws (log entry 17). -/

namespace Sys2Proof.Machine

/-! ### The named registers and modes -/

/-- The operating modes (R38). -/
inductive Mode where
  | normal
  | sleep
  | loopback
  | listenOnly
  | configuration
  deriving DecidableEq, Repr

/-- The field value (R31). -/
def modeField : Mode → BitVec 3
  | .normal => 0b000
  | .sleep => 0b001
  | .loopback => 0b010
  | .listenOnly => 0b011
  | .configuration => 0b100

/-- The byte with the field in bits 7:5 (R31). -/
def modeByte (m : Mode) : Byte := (modeField m).zeroExtend 8 <<< 5

/-- The receive buffer descriptor (R37). -/
structure BufferDesc where
  ctrl : Byte
  sidh : Byte
  data : Byte
  flag : Byte
  deriving DecidableEq, Repr

/-- The two descriptors (R37): false is buffer 0, true is buffer 1. -/
def bufferDesc : Bool → BufferDesc
  | false => ⟨Config.rxb0ctrl, Config.rxb0sidh, Config.rxb0d0, Config.rx0Flag⟩
  | true => ⟨Config.rxb1ctrl, Config.rxb1sidh, Config.rxb1d0, Config.rx1Flag⟩

/-- `SETMODE m` (R96). -/
def setMode (m : Mode) : Instr := .bitmod Config.canctrl Config.modeMask (modeByte m)

/-- `CLRFLAG b` (R96, R202). -/
def clrFlag (flag : Byte) : Instr := .bitmod Config.canintf flag 0x00

/-! ### Running a sequence (R190) -/

/-- How a sequence, or a part of it, ends. -/
inductive SeqOut (α : Type) where
  /-- It went through, with this value. -/
  | value (a : α)
  /-- It ended at this outcome (R190, R237). -/
  | ended (o : OpResult)
  /-- An operation gave no outcome of the shape it has: arises for no operation of this model. -/
  | noOutcome
  deriving DecidableEq, Repr

/-- A sequence's end and the state it leaves. -/
structure SeqRun (α : Type) where
  state : State
  out : SeqOut α
  deriving DecidableEq, Repr

/-- Goes on with the value, or stays at the end reached (R190: no rollback, no retry). -/
def SeqRun.andThen {α β : Type} (r : SeqRun α) (f : α → State → SeqRun β) : SeqRun β :=
  match r.out with
  | .value a => f a r.state
  | .ended o => ⟨r.state, .ended o⟩
  | .noOutcome => ⟨r.state, .noOutcome⟩

/-- The outcome on the result port, its value read in the shape the caller asks for. -/
def portValue {α : Type} (f : Value → Option α) : Option OpResult → SeqOut α
  | some (.ok v) =>
    match f v with
    | some a => .value a
    | none => .noOutcome
  | some (.error e) => .ended (.error e)
  | some (.refusal r) => .ended (.refusal r)
  | none => .noOutcome

/-- One block operation of a sequence. It counts in the step index k as an operation that `step` takes does (R22: k advances
by 1 per operation), and the host's own lines do not (DEDUCED, log entry 17). -/
def perform {α : Type} (f : Value → Option α) (i : Instr) (s : State) : SeqRun α :=
  match exec i s.countStep with
  | .next t => ⟨t, portValue f t.result⟩
  | .fault _ => ⟨s, .noOutcome⟩
  | .refused _ => ⟨s, .noOutcome⟩

def asUnit : Value → Option Unit
  | .unit => some ()
  | _ => none
def asByte : Value → Option Byte
  | .byte b => some b
  | _ => none
def asBytes : Value → Option (List Byte)
  | .bytes bs => some bs
  | _ => none
def asIdent : Value → Option (ExtId × Bool × IdWord)
  | .ident i e w => some (i, e, w)
  | _ => none
def asLen : Value → Option (BitVec 4)
  | .len n => some n
  | _ => none
def asWord : Value → Option IdWord
  | .word w => some w
  | _ => none

/-! ### Receive (R192-R204) -/

/-- The received frame (R192 step 8). -/
structure Frame where
  identifier : IdWord
  length : BitVec 4
  payload : List Byte
  deriving DecidableEq, Repr

/-- Buffer 0 before buffer 1 (R194); none when bits 1:0 are both 0 (R204). -/
def selectBuffer (st : Byte) : Option Bool :=
  if statusRx0 st then some false else if statusRx1 st then some true else none

/-- Step 6 (R200): `skipEmptyRead` is the OPEN parameter `SKIP_EMPTY_READ`. -/
def readPayload (skipEmptyRead : Bool) (d : BufferDesc) (len : BitVec 4) (s : State) : SeqRun (List Byte) :=
  if len = 0 ∧ skipEmptyRead = true then ⟨s, .value []⟩
  else perform asBytes (.read d.data len.toNat) s

/-- Steps 5 to 8 (R198, R200, R202). -/
def receiveBody (skipEmptyRead : Bool) (d : BufferDesc) (idw : IdWord) (len : BitVec 4) (s : State) : SeqRun Frame :=
  (perform asByte (.read1 d.ctrl) s).andThen fun ctrl s =>
  (perform asWord (.applyrtr idw ctrl) s).andThen fun idw s =>
  (readPayload skipEmptyRead d len s).andThen fun payload s =>
  (perform asUnit (clrFlag d.flag) s).andThen fun _ s =>
  ⟨s, .value ⟨idw, len, payload⟩⟩

/-- Steps 3 to 8 for the chosen buffer; a Malformed length ends it here (R196). -/
def receiveBuffer (skipEmptyRead : Bool) (d : BufferDesc) (s : State) : SeqRun Frame :=
  (perform asBytes (.read d.sidh Config.hdrLen) s).andThen fun hdr s =>
  (perform asIdent (.decid hdr) s).andThen fun ident s =>
  (perform asLen (.declen (hdr.getD 4 0)) s).andThen fun len s =>
  (perform asLen (.chklen (len.zeroExtend 8)) s).andThen fun len s =>
  receiveBody skipEmptyRead d ident.2.2 len s

/-- `receive()` (R192). -/
def receive (skipEmptyRead : Bool) (s : State) : SeqRun Frame :=
  (perform asByte .rdstat s).andThen fun st s =>
  match selectBuffer st with
  | some b => receiveBuffer skipEmptyRead (bufferDesc b) s
  | none => ⟨s, .ended (.error .noMessage)⟩

/-! ### Mode requests (R206, R208) -/

/-- One poll of CANSTAT: ok on a match, else what the deadline draw decides. -/
def pollOnce (m : Mode) (onMiss : State → SeqRun Unit) (s : State) : SeqRun Unit :=
  (perform asByte (.read1 Config.canstat) s).andThen fun v s =>
  if v &&& Config.modeMask = modeByte m then ⟨s, .value ()⟩ else onMiss s

/-- Polls while the deadline draws say "poll again", `again` times; at the next miss the deadline has passed (R206, D25). -/
def pollMode (m : Mode) : Nat → State → SeqRun Unit
  | 0, s => pollOnce m (fun t => ⟨t, .ended (.error .modeTimeout)⟩) s
  | again + 1, s => pollOnce m (fun t => pollMode m again t) s

/-- `requestMode(target)` (R206). -/
def requestMode (m : Mode) (again : Nat) (s : State) : SeqRun Unit :=
  (perform asUnit (setMode m) s).andThen fun _ s => pollMode m again s

/-- R208. -/
def requestConfiguration (again : Nat) (s : State) : SeqRun Unit := requestMode .configuration again s
def requestNormal (again : Nat) (s : State) : SeqRun Unit := requestMode .normal again s

/-! ### Bitrate configuration (R210, R212) -/

/-- CFG1, CFG2, CFG3 (R36). -/
structure Cfg where
  cfg1 : Byte
  cfg2 : Byte
  cfg3 : Byte
  deriving DecidableEq, Repr

/-- `BITRATE_TABLE` (R212): keys are (oscillator in Hz, rate in bit/s). -/
abbrev BitrateTable := List ((Nat × Nat) × Cfg)

/-- `lookup(clock, speed)` (R212). -/
def lookupBitrate : BitrateTable → Nat → Nat → Option Cfg
  | [], _, _ => none
  | ((c, r), t) :: rest, clock, speed => if c = clock ∧ r = speed then some t else lookupBitrate rest clock speed

/-- The one entry every admitted table holds (R8, R212). -/
def admittedTable (t : BitrateTable) : Bool := decide (lookupBitrate t 16000000 1000000 = some ⟨0x00, 0xD0, 0x82⟩)

/-- Writes CNF1, CNF2, CNF3 in that order (R210). -/
def writeCfg (t : Cfg) (s : State) : SeqRun Unit :=
  (perform asUnit (.write1 Config.cnf1 t.cfg1) s).andThen fun _ s =>
  (perform asUnit (.write1 Config.cnf2 t.cfg2) s).andThen fun _ s =>
  perform asUnit (.write1 Config.cnf3 t.cfg3) s

/-- `applyBitrate(speed, clock)` (R210, C6): the mode request comes first. -/
def applyBitrate (table : BitrateTable) (again : Nat) (speed clock : Nat) (s : State) : SeqRun Unit :=
  (requestConfiguration again s).andThen fun _ s =>
  match lookupBitrate table clock speed with
  | some t => writeCfg t s
  | none => ⟨s, .ended (.error .unsupported)⟩

/-! ### Filters, masks, reset and boot (R214, R216, R263) -/

/-- The operation that encodes a filter value (R214). -/
def encidInstr (extended : Bool) (value : Nat) : Instr := if extended then .encidExt value else .encidStd value

/-- The WRITE of a setter, wrapped in mode requests when the OPEN parameter `FILTER_MODE_SWITCH` holds (R214):
`modeSwitch` is none when it does not hold, else the previous mode and the deadline draws of the two requests. -/
def writeFilter (modeSwitch : Option (Mode × Nat × Nat)) (base : Byte) (bytes : List Byte) (s : State) : SeqRun Unit :=
  match modeSwitch with
  | none => perform asUnit (.write base bytes) s
  | some (previous, again1, again2) =>
    (requestConfiguration again1 s).andThen fun _ s =>
    (perform asUnit (.write base bytes) s).andThen fun _ s =>
    requestMode previous again2 s

/-- A setter over a list of base addresses; an index off the list is InvalidIndex, with no exchange (R214, R233).
R214 and R8 put the mode request of `FILTER_MODE_SWITCH` before the WRITE and leave its place beside ENCID open: here ENCID
comes first, so a refused ENCID sends nothing (DESIGN CHOICE, log entry 23). -/
def setAt (bases : List Byte) (modeSwitch : Option (Mode × Nat × Nat)) (slot : Nat) (extended : Bool) (value : Nat)
    (s : State) : SeqRun Unit :=
  match bases[slot]? with
  | none => ⟨s, .ended (.error .invalidIndex)⟩
  | some base =>
    (perform asBytes (encidInstr extended value) s).andThen fun bytes s => writeFilter modeSwitch base bytes s

/-- `setFilter(slot, extended, value)` (R214). -/
def setFilter (modeSwitch : Option (Mode × Nat × Nat)) (slot : Nat) (extended : Bool) (value : Nat) (s : State) :
    SeqRun Unit := setAt Config.filterBases modeSwitch slot extended value s

/-- `setFilterMask(slot, extended, value)` (R214). -/
def setFilterMask (modeSwitch : Option (Mode × Nat × Nat)) (slot : Nat) (extended : Bool) (value : Nat) (s : State) :
    SeqRun Unit := setAt Config.maskBases modeSwitch slot extended value s

/-- `reset()` (R216). -/
def hostReset (s : State) : SeqRun Unit := perform asUnit .reset s

/-- One call of a setter in the boot order (R214, R263). -/
structure SetterCall where
  /-- `setFilterMask`, else `setFilter`. -/
  mask : Bool
  slot : Nat
  extended : Bool
  value : Nat
  modeSwitch : Option (Mode × Nat × Nat)
  deriving DecidableEq, Repr

def SetterCall.run (c : SetterCall) (s : State) : SeqRun Unit :=
  if c.mask then setFilterMask c.modeSwitch c.slot c.extended c.value s
  else setFilter c.modeSwitch c.slot c.extended c.value s

/-- The optional setters, one after another (R263 step 3). -/
def runSetters : List SetterCall → State → SeqRun Unit
  | [], s => ⟨s, .value ()⟩
  | c :: cs, s => (c.run s).andThen fun _ s => runSetters cs s

/-- What one `receive()` of the polling loop found. -/
inductive Poll where
  | frame (f : Frame)
  | noMessage
  | malformed
  deriving DecidableEq, Repr

/-- The two ends of `receive()` after which the loop polls again: NoMessage, "normal, expected, non-error" (R218, R233), and
Malformed, which leaves the flag set so that the next call finds it again (R269; DESIGN CHOICE, log entry 24). -/
def pollOf : SeqOut Frame → SeqOut Poll
  | .value f => .value (.frame f)
  | .ended (.error .noMessage) => .value .noMessage
  | .ended (.error .malformed) => .value .malformed
  | .ended o => .ended o
  | .noOutcome => .noOutcome

/-- `receive()` polling (R263 step 5), n calls of it: the beginning of a loop that has no end of its own. -/
def receivePolling (skipEmptyRead : Bool) : Nat → State → SeqRun (List Poll)
  | 0, s => ⟨s, .value []⟩
  | n + 1, s =>
    let r := receive skipEmptyRead s
    SeqRun.andThen ⟨r.state, pollOf r.out⟩ fun p s =>
    (receivePolling skipEmptyRead n s).andThen fun ps s => ⟨s, .value (p :: ps)⟩

/-- The boot order (R263), with its first n polls. -/
def boot (table : BitrateTable) (again1 again2 : Nat) (speed clock : Nat) (setters : List SetterCall)
    (skipEmptyRead : Bool) (n : Nat) (s : State) : SeqRun (List Poll) :=
  (hostReset s).andThen fun _ s =>
  (applyBitrate table again1 speed clock s).andThen fun _ s =>
  (runSetters setters s).andThen fun _ s =>
  (requestNormal again2 s).andThen fun _ s =>
  receivePolling skipEmptyRead n s

end Sys2Proof.Machine
end

