-- ==== Sys2Proof/Machine/RefChip.lean ====
section
/-! DEFINITION. The reference chip of 20_memory R60 as the third agent: the reply it gives to an exchange, and a chip
change that a test declares. It is a device for tests and not a claim about the chip (R60; log entry 5): a run of the
block meets it only where its replies are placed in State. -/

namespace Sys2Proof.Machine

/-- The data phase of a READ of n registers from address a on (R60 `MemRead`). -/
def refChipData (c : Chip) (a n : Nat) : List Byte := (List.range n).map fun i => c.register (a + i)

/-- A burst that runs past 0xFF, which the reference chip refuses (R60, D19). -/
def pastEnd (addr : Byte) (count : Nat) : Bool := decide (0x100 < addr.toNat + count)

/-- The reply to a READ or a WRITE of R60, from the address byte on. -/
def refChipBurst (c : Chip) (op : Byte) (oracle : List Byte) : List Byte → Option (List Byte)
  | [] => none
  | addr :: data =>
    if pastEnd addr data.length then none
    else if op = Config.opcRead then some (oracle.take 2 ++ refChipData c addr.toNat data.length)
    else some oracle

/-- The reference chip's reply to `tx`, given the oracle's bytes for every position it does not determine: the command
phase, the status byte, the data phase of the other commands (R60). None where it refuses: a burst past 0xFF, and a first
byte that is none of the five commands, for which R60 has no rule and R88 says not to assume a no-op (DESIGN CHOICE, log
entry 22). The block sends no such byte; a codec operation performs no exchange, so there is nothing to answer. -/
def refChipReply (c : Chip) (tx oracle : List Byte) : Option (List Byte) :=
  match tx with
  | [] => none
  | op :: rest =>
    if op = Config.opcReset ∨ op = Config.opcReadStatus ∨ op = Config.opcBitmod then some oracle
    else if op = Config.opcRead ∨ op = Config.opcWrite then refChipBurst c op oracle rest
    else none

/-- The reference chip answers the operation i that the host is about to perform. -/
def attachRefChip (oracle : List Byte) (i : Instr) (s : State) : Option State :=
  (refChipReply s.chip (encode i) oracle).map fun rx => { s with replies := .bytes rx :: s.replies }

/-- A test declares that the chip changes a register between two exchanges (R60). -/
def chipChanges (a b : Byte) (s : State) : State :=
  s.setChip ⟨Memory.write s.chip.regs a.toNat b, s.chip.epoch, s.chip.pointer⟩

end Sys2Proof.Machine
end

