-- ==== Sys2Proof/Safety.lean ====
section
/-! DEFINITION. The terms the statements use: what a clean run is, what every record holds, and which operations send. -/

namespace Sys2Proof.Machine

/-- "No fault and no refusal was recorded" (R23). -/
def State.clean (s : State) : Bool := s.fault.isNone && s.refused.isNone

/-- The operations that perform an exchange: the five commands with operands the block admits (R110, R126, R130). -/
def sends : Instr → Bool
  | .reset => true
  | .rdstat => true
  | .read1 _ => true
  | .read _ n => !countOutOfRange n
  | .write1 _ _ => true
  | .write _ values => (writeRefusal values).isNone
  | .bitmod _ _ _ => true
  | .rts _ => false
  | .loadtx _ => false
  | .readrx _ => false
  | .decid _ => false
  | .declen _ => false
  | .chklen _ => false
  | .applyrtr _ _ => false
  | .encidStd _ => false
  | .encidExt _ => false
  | .reservedD => false
  | .reservedEF _ => false

/-- The reason the block refuses an operation, if it does (R235, in the order of R236). -/
def refusalOf : Instr → Option RefusalReason
  | .read _ n => if countOutOfRange n then some .burstTooLong else none
  | .write _ values => writeRefusal values
  | .rts _ => some .commandNotInScope
  | .loadtx _ => some .commandNotInScope
  | .readrx _ => some .commandNotInScope
  | .reservedD => some .commandNotInScope
  | .reservedEF _ => some .commandNotInScope
  | .decid hdr => if hdr.length = 5 then none else some .headerLength
  | .chklen len => if 15 < len.toNat then some .operandRange else none
  | .encidStd id => if 2 ^ 11 ≤ id then some .idOutOfRange else none
  | .encidExt id => if 2 ^ 29 ≤ id then some .idOutOfRange else none
  | .reset => none
  | .rdstat => none
  | .read1 _ => none
  | .write1 _ _ => none
  | .bitmod _ _ _ => none
  | .declen _ => none
  | .applyrtr _ _ => none

/-- A byte sequence is one whole command of the five formats, with admitted counts (R80-R85, R88, R111, R265, R266). -/
def wholeCommand : List Byte → Bool
  | [] => false
  | op :: rest =>
    (decide (op = Config.opcReset) && decide (rest = [])) ||
    (decide (op = Config.opcReadStatus) && decide (rest = [Config.fill])) ||
    (decide (op = Config.opcRead) && decide (1 ≤ rest.length) && decide (rest.length ≤ 1 + Config.maxData) &&
      rest.tail.all (· == Config.fill)) ||
    (decide (op = Config.opcWrite) && decide (2 ≤ rest.length) && decide (rest.length ≤ 1 + Config.maxData)) ||
    (decide (op = Config.opcBitmod) && decide (rest.length = 3))

/-- A log entry: a whole command, and a reply of equal length or FAILED (R23). -/
def Exchange.sound (e : Exchange) : Bool :=
  wholeCommand e.tx &&
    match e.rx with
    | .failed => true
    | .bytes rx => decide (rx.length = e.tx.length)

/-- The log entry of a failed exchange (R23, R231). -/
def Exchange.isFailed (e : Exchange) : Bool := decide (e.rx = .failed)

/-- What every record holds: sound entries only; the fault mark set exactly when some exchange failed (R23, R112); the
reference chip's registers in the canonical form. -/
def State.inv (s : State) : Bool :=
  s.log.all Exchange.sound && decide (s.fault.isSome = s.log.any Exchange.isFailed) && Memory.wf s.chip.regs

/-! ### What an operation leaves, written out for the statements -/

/-- After an exchange that sent tx and got rx: nothing else has changed. (`replies` and `draws` are the model's, log entry 2.) -/
def afterExchange (s : State) (tx rx : List Byte) (rest : List Reply) (c : Chip) (v : Value) : State :=
  { s with replies := rest, draws := s.draws + 1, log := s.log ++ [⟨tx, .bytes rx⟩], result := some (.ok v), chip := c }

/-- After an exchange that sent tx and failed (R231): c is what the chip became, which nobody knows. -/
def afterFailure (s : State) (tx : List Byte) (rest : List Reply) (c : Chip) : State :=
  { s with replies := rest, draws := s.draws + 1, log := s.log ++ [⟨tx, .failed⟩], fault := some .transportFailure,
           result := some (.error .transportFailure), chip := c }

/-- After a refusal (R235). -/
def afterRefusal (s : State) (r : RefusalReason) : State := { s with refused := some r, result := some (.refusal r) }

/-- After an operation that only gives a value. -/
def afterValue (s : State) (v : Value) : State := { s with result := some (.ok v) }

/-- The transport failed, or its reply has another length than tx (R112, R231). -/
def failsOn (tx : List Byte) (r : Reply) : Prop := r = .failed ∨ ∃ rx, r = .bytes rx ∧ rx.length ≠ tx.length

/-- The codec operations, selectors 0x8 to 0xC (R89). -/
def isCodec (i : Instr) : Bool := decide (0x8 ≤ (selector i).toNat) && decide ((selector i).toNat ≤ 0xC)

/-- The commands that store to chip registers or forget them: RESET, WRITE and BIT-MODIFY (R59, R60). -/
def stores : Instr → Bool
  | .reset => true
  | .write1 _ _ => true
  | .write _ _ => true
  | .bitmod _ _ _ => true
  | .rdstat => false
  | .read1 _ => false
  | .read _ _ => false
  | .rts _ => false
  | .loadtx _ => false
  | .readrx _ => false
  | .decid _ => false
  | .declen _ => false
  | .chklen _ => false
  | .applyrtr _ _ => false
  | .encidStd _ => false
  | .encidExt _ => false
  | .reservedD => false
  | .reservedEF _ => false

/-! ### Terms for the host sequences -/

/-- The coming answer of one poll of CANSTAT: two bytes of the command phase and the register. -/
def pollReply (p : Byte × Byte × Byte) : Reply := .bytes [p.1, p.2.1, p.2.2]

/-- The log entry of that poll. -/
def pollExchange (p : Byte × Byte × Byte) : Exchange := ⟨[Config.opcRead, Config.canstat, Config.fill], pollReply p⟩

/-- A poll that does not show the mode (R206). -/
def pollMisses (m : Mode) (p : Byte × Byte × Byte) : Prop := p.2.2 &&& 0xE0 ≠ modeByte m

/-- The identifier word of a received frame as a number (R90, R91, R150, R160). -/
def frameWordValue (h0 h1 h2 h3 ctrl : Byte) : Nat :=
  (if h1.getLsbD Config.ideBit then
    (h0.toNat * 8 + h1.toNat / 32) * 2 ^ 18 + (h1.toNat % 4) * 2 ^ 16 + h2.toNat * 2 ^ 8 + h3.toNat + 2 ^ 31
  else h0.toNat * 8 + h1.toNat / 32) + (if ctrl.getLsbD Config.rtrCtrlBit then 2 ^ 30 else 0)

/-- A sequence that started in s ends at its first failed exchange, with TransportFailure and the fault mark set, and so
ends only then (R190, R218, R231, R237). -/
def SeqRun.endsAtFailure {α : Type} (s : State) (r : SeqRun α) : Prop :=
  ∃ es : List Exchange, r.state.log = s.log ++ es ∧ (∀ e ∈ es.dropLast, e.isFailed = false) ∧
    (es.any Exchange.isFailed = true ↔ r.out = .ended (.error .transportFailure)) ∧
    (r.out = .ended (.error .transportFailure) → r.state.fault = some .transportFailure)

/-- An exchange that could clear buffer 1's flag: a BIT-MODIFY of CANINTF whose mask has bit 1, any WRITE, a RESET. -/
def mayClearRx1 : List Byte → Bool
  | op :: rest =>
    decide (op = Config.opcReset) || decide (op = Config.opcWrite) ||
      (decide (op = Config.opcBitmod) && decide (rest[0]? = some Config.canintf) && (rest.getD 1 0xFF).getLsbD 1)
  | [] => false

end Sys2Proof.Machine
end

