-- ==== Sys2Proof/Certificates/Slice0/Obligations.lean ====
section
/-! DEFINITION. The statements for the provers. -/

open Sys2Proof Sys2Proof.Machine

/-! ### Words (30_encoding) -/

/-- Words written out from R81-R86 and R89: the formats at the default opcodes, the refused commands and the selectors.
The operand bytes after a codec selector are the model's layout (log entry 1). -/
def Obligations.WrittenOutWordsDecodeToTheirOperations : Prop :=
  decode [0xC0] = .ok .reset ∧ decode [0xA0, 0x00] = .ok .rdstat ∧
  decode [0x03, 0x61, 0, 0, 0, 0, 0] = .ok (.read 0x61 5) ∧ decode [0x05, 0x2C, 0x01, 0x00] = .ok (.bitmod 0x2C 0x01 0x00) ∧
  decode [0x02, 0x08, 0x91, 0xA8, 0x56, 0x78] = .ok (.write 0x08 [0x91, 0xA8, 0x56, 0x78]) ∧
  decode [0x81] = .ok (.rts 0b001) ∧ decode [0x45] = .ok (.loadtx 0b101) ∧ decode [0x96] = .ok (.readrx 0b11) ∧
  decode [0x09, 0x4F] = .ok (.declen 0x4F) ∧ decode [0x0E] = .ok (.reservedEF false)

/-- Every well-formed operation is read back from its words with every operand as it was: the decoder answers the
operation's one spelling, which is the operation itself but for a READ or WRITE of one byte (R24, R96; log entry 10). -/
def Obligations.DecodingTheEncodedOperationGivesItBack : Prop :=
  ∀ i : Instr, i.wellFormed = true → decode (encode i) = .ok (canonical i)

/-- The other direction: what the decoder answers is well formed, in its one
spelling, and has exactly the bytes read (log entries 1, 10 and 14). -/
def Obligations.EncodingTheDecodedBytesGivesThemBack : Prop :=
  ∀ (bs : List Byte) (i : Instr), decode bs = .ok i → encode i = bs ∧ i.wellFormed = true ∧ canonical i = i

/-- R146: different requests of the five commands give different byte sequences. READ1 and WRITE1 are the requests READ
and WRITE of one byte (R96), hence the one spelling (log entry 10). -/
def Obligations.DifferentCommandsSendDifferentBytes : Prop :=
  ∀ i j : Instr, sends i = true → sends j = true → encode i = encode j → canonical i = canonical j

/-- R88: byte 0 of every exchange the block performs is one of the five in-scope opcode bytes. -/
def Obligations.OnlyInScopeOpcodesAreSent : Prop :=
  ∀ (i : Instr) (s t : State) (e : Exchange), exec i s = .next t → t.log = s.log ++ [e] →
    ∃ op rest, e.tx = op :: rest ∧
      op ∈ [Config.opcReset, Config.opcReadStatus, Config.opcRead, Config.opcWrite, Config.opcBitmod]

/-! ### The step (10_state R22, R24) -/

/-- A step takes the request at the head of the port and performs the operation its bytes decode to (the port
is the model's, log entry 1). -/
def Obligations.StepPerformsTheDecodedRequest : Prop :=
  ∀ (s : State) (r : List Byte) (rest : List (List Byte)) (i : Instr), s.requests = r :: rest → decode r = .ok i →
    step s = exec i { s with requests := rest, k := s.k + 1 }

/-- The model's choices (log entries 13 and 14): bytes that are no request are refused by name, and with no request the
block waits. -/
def Obligations.StepRefusesUndecodableBytesAndWaitsWithoutRequest : Prop :=
  ∀ s : State, (s.requests = [] → step s = .next s) ∧
    ∀ r rest why, s.requests = r :: rest → decode r = .error why → step s = .refused (.undecodable why)

/-! ### The commands (40_spi_commands) -/

/-- R120, R231: RESET. What becomes of the chip's registers and pointer is left open.
The log entry of a reply of another length is log entry 3, with R231. -/
def Obligations.ResetSendsItsOpcodeAndReadsNoReply : Prop :=
  selector .reset = 0x0 ∧ ∀ (s : State) (rest : List Reply) (r : Reply), s.replies = r :: rest →
    (∀ b, r = .bytes [b] →
      ∃ c : Chip, exec .reset s = .next (afterExchange s [Config.opcReset] [b] rest c .unit)) ∧
    (failsOn [Config.opcReset] r → ∃ c : Chip, exec .reset s = .next (afterFailure s [Config.opcReset] rest c))

/-- R122, R231: READ-STATUS gives the second reply byte, whatever the first holds. That the pointer stays is log entry 9.
The log entry of a reply of another length is log entry 3, with R231. -/
def Obligations.ReadStatusReturnsTheSecondReplyByte : Prop :=
  selector .rdstat = 0x1 ∧ ∀ (s : State) (rest : List Reply) (r : Reply), s.replies = r :: rest →
    (∀ b0 b1, r = .bytes [b0, b1] → exec .rdstat s =
      .next (afterExchange s [Config.opcReadStatus, Config.fill] [b0, b1] rest s.chip (.byte b1))) ∧
    (failsOn [Config.opcReadStatus, Config.fill] r →
      ∃ c : Chip, exec .rdstat s = .next (afterFailure s [Config.opcReadStatus, Config.fill] rest c))

/-- R124, R231: READ1 gives the third reply byte, for every address. The reference chip's pointer moves to addr + 1 (R28; as
a number past 0xFF too, log entries 5, 8 and 9). The log entry of a reply of another length is log entry 3, with R231. -/
def Obligations.ReadOneReturnsTheThirdReplyByte : Prop :=
  ∀ addr : Byte, selector (.read1 addr) = 0x2 ∧
    ∀ (s : State) (rest : List Reply) (r : Reply), s.replies = r :: rest →
      (∀ b0 b1 b2, r = .bytes [b0, b1, b2] → exec (.read1 addr) s =
        .next (afterExchange s [Config.opcRead, addr, Config.fill] [b0, b1, b2] rest
          (s.chip.readPast addr 1) (.byte b2))) ∧
      (failsOn [Config.opcRead, addr, Config.fill] r →
        ∃ c : Chip, exec (.read1 addr) s = .next (afterFailure s [Config.opcRead, addr, Config.fill] rest c))

/-- R126, R231: READ of n registers, n = 0 included, gives reply bytes 2 up to 2 + n in order; a count outside 0..MAX_DATA is
refused with BurstTooLong and nothing is sent. The reference chip's pointer moves to addr + n (R28; as a number past 0xFF
too, log entries 5, 8 and 9). The log entry of a reply of another length is log entry 3, with R231. -/
def Obligations.ReadReturnsTheReplyBytesFromTwoOn : Prop :=
  ∀ (addr : Byte) (n : Int), selector (.read addr n) = 0x2 ∧
    (∀ s : State, n < 0 ∨ (Config.maxData : Int) < n → exec (.read addr n) s = .next (afterRefusal s .burstTooLong)) ∧
    ∀ (s : State) (m : Nat) (rest : List Reply) (r : Reply), n = m → m ≤ Config.maxData → s.replies = r :: rest →
      (∀ rx, r = .bytes rx → rx.length = 2 + m → ∃ bs : List Byte, bs.length = m ∧ (∀ j, j < m → bs[j]? = rx[2 + j]?) ∧
        exec (.read addr n) s = .next (afterExchange s (Config.opcRead :: addr :: List.replicate m Config.fill) rx rest
          ⟨s.chip.regs, s.chip.epoch, addr.toNat + m⟩ (.bytes bs))) ∧
      (failsOn (Config.opcRead :: addr :: List.replicate m Config.fill) r →
        ∃ c : Chip, exec (.read addr n) s =
          .next (afterFailure s (Config.opcRead :: addr :: List.replicate m Config.fill) rest c))

/-- R128, R231: WRITE1 accepts any reply of length 3. `Chip.write` is the reference chip's (R28, R53, R60; log entries 5, 8
and 9), and `WriteStoresToTheRegistersItReaches` says what it does. The log entry of a reply of another length is log entry 3, with R231. -/
def Obligations.WriteOneSendsTheValueAndReadsNoReply : Prop :=
  ∀ addr value : Byte, selector (.write1 addr value) = 0x3 ∧
    ∀ (s : State) (rest : List Reply) (r : Reply), s.replies = r :: rest →
      (∀ rx, r = .bytes rx → rx.length = 3 → exec (.write1 addr value) s =
        .next (afterExchange s [Config.opcWrite, addr, value] rx rest (s.chip.write addr [value]) .unit)) ∧
      (failsOn [Config.opcWrite, addr, value] r →
        ∃ c : Chip, exec (.write1 addr value) s = .next (afterFailure s [Config.opcWrite, addr, value] rest c))

/-- R130, R231: WRITE of k bytes, 1..MAX_DATA, sends them in order; none is EmptyWrite, more is BurstTooLong, each with
nothing sent. `Chip.write` is the reference chip's (R28, R53, R60; log entries 5, 8 and 9), and
`WriteStoresToTheRegistersItReaches` says what it does. The log entry of a reply of another length is log entry 3, with R231. -/
def Obligations.WriteSendsTheValuesInOrder : Prop :=
  ∀ (addr : Byte) (values : List Byte), selector (.write addr values) = 0x3 ∧
    (∀ s : State, values = [] → exec (.write addr values) s = .next (afterRefusal s .emptyWrite)) ∧
    (∀ s : State, Config.maxData < values.length →
      exec (.write addr values) s = .next (afterRefusal s .burstTooLong)) ∧
    ∀ (s : State) (rest : List Reply) (r : Reply), values ≠ [] → values.length ≤ Config.maxData → s.replies = r :: rest →
      (∀ rx, r = .bytes rx → rx.length = 2 + values.length → exec (.write addr values) s =
        .next (afterExchange s (Config.opcWrite :: addr :: values) rx rest (s.chip.write addr values) .unit)) ∧
      (failsOn (Config.opcWrite :: addr :: values) r →
        ∃ c : Chip, exec (.write addr values) s = .next (afterFailure s (Config.opcWrite :: addr :: values) rest c))

/-- R132, R60, R231: BIT-MODIFY sends address, mask and data; its effect on the reference chip, at every address (log entries
5 and 19): the masked bits of the one register are the data's, its other bits stay, every other register is as before.
That the pointer stays is log entry 9. The log entry of a reply of another length is log entry 3, with R231. -/
def Obligations.BitModifyChangesOnlyTheMaskedBits : Prop :=
  ∀ addr mask data : Byte, selector (.bitmod addr mask data) = 0x4 ∧
    ∀ (s : State) (rest : List Reply) (r : Reply), s.replies = r :: rest →
      (∀ rx, r = .bytes rx → rx.length = 4 → ∃ c : Chip,
        exec (.bitmod addr mask data) s =
          .next (afterExchange s [Config.opcBitmod, addr, mask, data] rx rest c .unit) ∧
        c.pointer = s.chip.pointer ∧
        (∀ j, j < 8 → (c.register addr.toNat).getLsbD j =
          if mask.getLsbD j then data.getLsbD j else (s.chip.register addr.toNat).getLsbD j) ∧
        ∀ a, a ≠ addr.toNat → c.register a = s.chip.register a) ∧
      (failsOn [Config.opcBitmod, addr, mask, data] r →
        ∃ c : Chip, exec (.bitmod addr mask data) s =
          .next (afterFailure s [Config.opcBitmod, addr, mask, data] rest c))

/-- R231: a failed transport or a reply of the wrong length, in every operation that exchanges: the log gains
(tx, FAILED) and the fault mark is set; what became of the chip is left open, and nothing else changes. The log entry of a
reply of another length is the model's reading, log entry 3: R231 and R23 before R112's first line. -/
def Obligations.FailedExchangeLeavesOnlyItsLogEntryAndTheFaultMark : Prop :=
  ∀ (i : Instr) (s : State) (r : Reply) (rest : List Reply), sends i = true → s.replies = r :: rest →
    failsOn (encode i) r → ∃ c : Chip, exec i s = .next (afterFailure s (encode i) rest c)

/-- R7: where no answer stands in State, the answer is a free value, and the operation does with it what it does with any
answer. It holds whatever the free value is (log entry 2). -/
def Obligations.AFreeReplyIsTreatedAsAnyReply : Prop :=
  ∀ (i : Instr) (s : State) (r : Reply), sends i = true → s.replies = [] → oracleReply (encode i) s = r →
    exec i s = exec i { s with replies := [r] } ∧ ∃ t, exec i s = .next t

/-- R140: RTS, LOADTX, READRX and the reserved selectors are refused with CommandNotInScope, with no exchange. -/
def Obligations.CommandsOutOfScopeAreRefused : Prop :=
  ∀ (s : State) (t abc : BitVec 3) (nm : BitVec 2) (low : Bool),
    exec (.rts t) s = .next (afterRefusal s .commandNotInScope) ∧ selector (.rts t) = 0x5 ∧
    exec (.loadtx abc) s = .next (afterRefusal s .commandNotInScope) ∧ selector (.loadtx abc) = 0x6 ∧
    exec (.readrx nm) s = .next (afterRefusal s .commandNotInScope) ∧ selector (.readrx nm) = 0x7 ∧
    exec .reservedD s = .next (afterRefusal s .commandNotInScope) ∧ selector .reservedD = 0xD ∧
    exec (.reservedEF low) s = .next (afterRefusal s .commandNotInScope) ∧
    selector (.reservedEF low) = (if low then 0xF else 0xE)

/-- R110 and R146: reply bytes outside the positions of the format never change the outcome: READ-STATUS reads byte 1,
READ the bytes from 2 on, the other commands none. That the reference chip is the same too is R60 and log entry 5, and after
a RESET or a failed exchange log entry 7: its new oracle values and pointer are indexed by the draw counter alone, where
R60, R231 and R261 leave them open. -/
def Obligations.UnreadReplyBytesDoNotChangeTheOutcome : Prop :=
  ∀ (i : Instr) (s t t' : State) (rx rx' : List Byte), rx.length = rx'.length →
    (i = .rdstat → rx[1]? = rx'[1]?) → ((∃ a, i = .read1 a) ∨ (∃ a n, i = .read a n) → rx.drop 2 = rx'.drop 2) →
    exec i { s with replies := [.bytes rx] } = .next t → exec i { s with replies := [.bytes rx'] } = .next t' →
    t.result = t'.result ∧ t.fault = t'.fault ∧ t.refused = t'.refused ∧ t.chip = t'.chip

/-- R96: the four pseudo-instructions are what they expand to; READ1 gives its one byte where READ gives a sequence. -/
def Obligations.PseudoInstructionsAreTheirExpansions : Prop :=
  (∀ (addr : Byte) (s : State), encode (.read1 addr) = encode (.read addr 1) ∧
    ∃ t : State, exec (.read1 addr) s = .next t ∧
      ((∃ b, t.result = some (.ok (.byte b)) ∧
        exec (.read addr 1) s = .next { t with result := some (.ok (.bytes [b])) }) ∨
       (t.result = some (.error .transportFailure) ∧ exec (.read addr 1) s = .next t))) ∧
  (∀ (addr v : Byte) (s : State), encode (.write1 addr v) = encode (.write addr [v]) ∧
    exec (.write1 addr v) s = exec (.write addr [v]) s) ∧
  (∀ m : Mode, ∃ d : Byte, d.toNat = (modeField m).toNat * 2 ^ 5 ∧ setMode m = .bitmod Config.canctrl 0xE0 d) ∧
  ∀ b : Bool, clrFlag (bufferDesc b).flag = .bitmod Config.canintf (if b then 0x02 else 0x01) 0x00

/-! ### The frame codec (41_frame_codec) -/

/-- R152: DECID on every 5-byte header, in numbers: a standard identifier is H0·8 + H1[7:5]; an extended one appends
H1[1:0], H2 and H3; the word adds bit 31. -/
def Obligations.DecidGivesTheIdentifierOfItsFormat : Prop :=
  ∀ h0 h1 h2 h3 h4 : Byte, selector (.decid [h0, h1, h2, h3, h4]) = 0x8 ∧
    ∃ (id29 : ExtId) (idw : IdWord),
      (∀ s : State, exec (.decid [h0, h1, h2, h3, h4]) s =
        .next (afterValue s (.ident id29 (h1.getLsbD Config.ideBit) idw))) ∧
      (h1.getLsbD Config.ideBit = false → id29.toNat = h0.toNat * 8 + h1.toNat / 32 ∧ idw.toNat = id29.toNat) ∧
      (h1.getLsbD Config.ideBit = true →
        id29.toNat = (h0.toNat * 8 + h1.toNat / 32) * 2 ^ 18 + (h1.toNat % 4) * 2 ^ 16 + h2.toNat * 2 ^ 8 + h3.toNat ∧
        idw.toNat = id29.toNat + 2 ^ Config.extFlagBit)

/-- R154: headers that differ only in bits DECID does not read give equal results. -/
def Obligations.DecidReadsOnlyTheNamedBits : Prop :=
  ∀ (s t t' : State) (h0 h1 h2 h3 h4 g1 g2 g3 g4 : Byte),
    h1 &&& 0xE8 = g1 &&& 0xE8 →
    (h1.getLsbD Config.ideBit = true → h1 &&& 0x03 = g1 &&& 0x03 ∧ h2 = g2 ∧ h3 = g3) →
    exec (.decid [h0, h1, h2, h3, h4]) s = .next t → exec (.decid [h0, g1, g2, g3, g4]) s = .next t' →
    t = t'

/-- R235: where an operand lies outside its field, DECID's header length and CHKLEN's length, the operation is refused.
That the operands are wide enough for it is the model's choice (log entry 12). -/
def Obligations.CodecOperandsOutsideTheirFieldAreRefused : Prop :=
  ∀ (s : State) (hdr : List Byte) (len : Byte),
    (hdr.length ≠ 5 → exec (.decid hdr) s = .next (afterRefusal s .headerLength)) ∧
    (15 < len.toNat → exec (.chklen len) s = .next (afterRefusal s .operandRange))

/-- R156: DECLEN never fails and gives the low four bits. -/
def Obligations.DeclenGivesTheLowFourBits : Prop :=
  ∀ b : Byte, selector (.declen b) = 0x9 ∧
    ∃ n : BitVec 4, n.toNat = b.toNat % 16 ∧ n.zeroExtend 8 = b &&& 0x0F ∧
      ∀ s : State, exec (.declen b) s = .next (afterValue s (.len n))

/-- R158: CHKLEN gives a length up to 8 back unchanged and raises Malformed on 9..15. -/
def Obligations.ChklenAcceptsLengthsUpToEight : Prop :=
  ∀ len : Byte, selector (.chklen len) = 0xA ∧ ∀ s : State,
    (len.toNat ≤ 8 → ∃ n : BitVec 4, n.toNat = len.toNat ∧ exec (.chklen len) s = .next (afterValue s (.len n))) ∧
    (9 ≤ len.toNat → len.toNat ≤ 15 →
      exec (.chklen len) s = .next { s with result := some (.error .malformed) })

/-- R160: APPLYRTR sets bit 30 exactly when the control byte's bit 3 is set, never clears it, and passes every other bit. -/
def Obligations.ApplyRtrSetsOnlyTheRemoteRequestFlag : Prop :=
  ∀ (idw : IdWord) (ctrl : Byte), selector (.applyrtr idw ctrl) = 0xB ∧
    ∃ w : IdWord, (∀ s : State, exec (.applyrtr idw ctrl) s = .next (afterValue s (.word w))) ∧
      (∀ j, j ≠ Config.rtrFlagBit → w.getLsbD j = idw.getLsbD j) ∧
      w.getLsbD Config.rtrFlagBit = (idw.getLsbD Config.rtrFlagBit || ctrl.getLsbD Config.rtrCtrlBit)

/-- R162: ENCID of a standard frame. -/
def Obligations.EncidStandardLayout : Prop :=
  ∀ (id : Nat) (s : State), selector (.encidStd id) = 0xC ∧
    (id < 2 ^ 11 → exec (.encidStd id) s =
      .next (afterValue s (.bytes [BitVec.ofNat 8 (id / 8), BitVec.ofNat 8 (id % 8 * 32), 0x00, 0x00]))) ∧
    (2 ^ 11 ≤ id → exec (.encidStd id) s = .next (afterRefusal s .idOutOfRange))

/-- R164: ENCID of an extended frame. -/
def Obligations.EncidExtendedLayout : Prop :=
  ∀ (id : Nat) (s : State), selector (.encidExt id) = 0xC ∧
    (id < 2 ^ 29 → exec (.encidExt id) s =
      .next (afterValue s (.bytes [BitVec.ofNat 8 (id / 2 ^ 21),
        BitVec.ofNat 8 (id / 2 ^ 18 % 8 * 32 + 2 ^ Config.ideBit + id / 2 ^ 16 % 4),
        BitVec.ofNat 8 (id / 2 ^ 8), BitVec.ofNat 8 id]))) ∧
    (2 ^ 29 ≤ id → exec (.encidExt id) s = .next (afterRefusal s .idOutOfRange))

/-- R166: ENCID refuses an identifier outside its format's range, and with it every word that still carries a flag. -/
def Obligations.EncidRefusesWideAndFlaggedIdentifiers : Prop :=
  ∀ s : State, (∀ id, 2 ^ 11 ≤ id → exec (.encidStd id) s = .next (afterRefusal s .idOutOfRange)) ∧
    (∀ id, 2 ^ 29 ≤ id → exec (.encidExt id) s = .next (afterRefusal s .idOutOfRange)) ∧
    ∀ w : IdWord, w.getLsbD Config.extFlagBit = true ∨ w.getLsbD Config.rtrFlagBit = true →
      exec (.encidStd w.toNat) s = .next (afterRefusal s .idOutOfRange) ∧
      exec (.encidExt w.toNat) s = .next (afterRefusal s .idOutOfRange)

/-- R168: every identifier survives encoding and decoding, whatever the fifth header byte. -/
def Obligations.IdentifiersSurviveEncodingAndDecoding : Prop :=
  ∀ (id : Nat) (x : Byte) (s : State),
    (id < 2 ^ 11 → ∃ bs, exec (.encidStd id) s = .next (afterValue s (.bytes bs)) ∧
      exec (.decid (bs ++ [x])) s =
        .next (afterValue s (.ident (BitVec.ofNat 29 id) false (BitVec.ofNat 32 id)))) ∧
    (id < 2 ^ 29 → ∃ bs, exec (.encidExt id) s = .next (afterValue s (.bytes bs)) ∧
      exec (.decid (bs ++ [x])) s =
        .next (afterValue s (.ident (BitVec.ofNat 29 id) true (BitVec.ofNat 32 id ||| 0x80000000))))

/-- R170: decoding a header and encoding the identifier again clears exactly the bits DECID does not read. -/
def Obligations.ReencodingADecodedHeaderGivesItsCanonicalForm : Prop :=
  ∀ (h0 h1 h2 h3 h4 : Byte) (s : State) (i : ExtId) (e : Bool) (w : IdWord),
    exec (.decid [h0, h1, h2, h3, h4]) s = .next (afterValue s (.ident i e w)) →
    (e = false → exec (.encidStd i.toNat) s = .next (afterValue s (.bytes [h0, h1 &&& 0xE0, 0x00, 0x00]))) ∧
    (e = true → exec (.encidExt i.toNat) s = .next (afterValue s (.bytes [h0, (h1 &&& 0xE3) ||| 0x08, h2, h3])))

/-- R172: the further laws of the codec. -/
def Obligations.FurtherCodecLaws : Prop :=
  ∀ s : State,
    (∀ b : Byte, ∃ n : BitVec 4, n.zeroExtend 8 = b &&& 0x0F ∧ exec (.declen b) s = .next (afterValue s (.len n)) ∧
      (exec (.chklen (n.zeroExtend 8)) s = .next { s with result := some (.error .malformed) } ↔
        8 < (b &&& 0x0F).toNat)) ∧
    (∀ (w : IdWord) (c : Byte), ∃ w' : IdWord, exec (.applyrtr w c) s = .next (afterValue s (.word w')) ∧
      exec (.applyrtr w' c) s = .next (afterValue s (.word w'))) ∧
    ∀ h0 h1 h2 h3 h4 : Byte, ∃ (i : ExtId) (e : Bool) (w : IdWord),
      exec (.decid [h0, h1, h2, h3, h4]) s = .next (afterValue s (.ident i e w)) ∧
      w.getLsbD 30 = false ∧ w.getLsbD 29 = false ∧ w.extractLsb' 0 29 = i ∧ w.getLsbD 31 = e

/-- R150: the word that DECID and then APPLYRTR produce is the identifier with the two flags at bits 31 and 30; bit 29 is 0. -/
def Obligations.IdentifierWordHoldsIdentifierAndFlags : Prop :=
  ∀ (s : State) (h0 h1 h2 h3 h4 ctrl : Byte), ∃ (i : ExtId) (e : Bool) (w w' : IdWord),
    exec (.decid [h0, h1, h2, h3, h4]) s = .next (afterValue s (.ident i e w)) ∧
    exec (.applyrtr w ctrl) s = .next (afterValue s (.word w')) ∧
    (e = false → i.toNat < 2 ^ 11) ∧ w'.getLsbD 29 = false ∧
    w'.toNat = i.toNat + (if e then 2 ^ 31 else 0) + (if ctrl.getLsbD Config.rtrCtrlBit then 2 ^ 30 else 0)

/-- The codec is pure: its outcome does not depend on the state, no exchange is performed, and it writes only the result
port and, on a refusal, the refusal mark. -/
def Obligations.CodecOperationsArePure : Prop :=
  ∀ i : Instr, isCodec i = true → ∃ o : OpResult, ∀ s : State,
    (∀ r, o = .refusal r → exec i s = .next (afterRefusal s r)) ∧
    ((∀ r, o ≠ .refusal r) → exec i s = .next { s with result := some o })

/-! ### The whole machine -/

/-- R25, R239: every operation in every state ends with exactly one outcome on the result port, and the block goes on. -/
def Obligations.EveryOperationEndsWithAnOutcome : Prop :=
  ∀ (i : Instr) (s : State), ∃ (t : State) (o : OpResult), exec i s = .next t ∧ t.result = some o ∧
    t.requests = s.requests ∧ t.k = s.k

/-- R235, R236: an operation that is to be refused is refused with the first reason that applies, sends nothing and leaves
all but the refusal mark and the result port; an operation that is not leaves the refusal mark. That a later reason
replaces an earlier one is log entry 4. -/
def Obligations.RefusalsComeBeforeAnyExchange : Prop :=
  ∀ (i : Instr) (s : State), (∀ r, refusalOf i = some r → exec i s = .next (afterRefusal s r)) ∧
    (refusalOf i = none → ∃ t, exec i s = .next t ∧ t.refused = s.refused ∧ ∀ r, t.result ≠ some (.refusal r))

/-- R110, R111, R144: a command performs exactly one exchange, of exactly its format's bytes; every other operation none.
The draw counter is the model's own field (log entry 2). -/
def Obligations.EveryCommandPerformsExactlyOneExchange : Prop :=
  ∀ (i : Instr) (s t : State), exec i s = .next t →
    (sends i = true → ∃ r, t.log = s.log ++ [⟨encode i, r⟩] ∧ t.replies = s.replies.tail) ∧
    (sends i = false → t.log = s.log ∧ t.replies = s.replies ∧ t.fault = s.fault ∧ t.chip = s.chip ∧ t.draws = s.draws)

/-- R23: the marks are sticky over every step. -/
def Obligations.MarksAreNeverCleared : Prop :=
  ∀ s t : State, step s = .next t → (s.fault ≠ none → t.fault = s.fault) ∧ (s.refused ≠ none → t.refused ≠ none)

/-- R63: a run of n steps only appends to the log, at most one exchange a step, in the order performed. -/
def Obligations.RunsOnlyAppendToTheLog : Prop :=
  ∀ (n : Nat) (s t : State), core.run n s = .next t → ∃ es : List Exchange, t.log = s.log ++ es ∧ es.length ≤ n

/-- R7, R20, R23: two states with the same coming answers give an operation the same outcome and the same exchange,
whatever their records, marks, ports and chip registers hold. The free answers are indexed by the draw counter (log entry 2). -/
def Obligations.OutcomesReadNeitherTheRecordNorTheChip : Prop :=
  ∀ (i : Instr) (s s' t t' : State), s.replies = s'.replies → s.draws = s'.draws →
    exec i s = .next t → exec i s' = .next t' →
    t.result = t'.result ∧ ∃ es, t.log = s.log ++ es ∧ t'.log = s'.log ++ es

/-- R39, R260: the record at reset. That it is sound (`State.inv`) is said by no rule and is the model's own clause: a reply
of another length counts as log entry 3 says, and the canonical form of the reference chip's register list is the model's
choice (DESIGN CHOICE, log entries 5 and 6). -/
def Obligations.ResetLeavesAnEmptySoundRecord : Prop :=
  State.reset.log = [] ∧ State.reset.fault = none ∧ State.reset.refused = none ∧ State.reset.inv = true

/-- Every step keeps the record sound: each log entry is one whole command of the five formats (R88, R111, R265, R266)
with a reply of equal length or FAILED (R23), the fault mark is set exactly when some exchange failed (R112, R231), and
the reference chip's registers stay in the canonical form. FAILED for a reply of another length is log entry 3; the register
list and its form are the model's choice (log entries 5 and 6). -/
def Obligations.EveryStepKeepsTheRecordSound : Prop :=
  ∀ s t : State, s.inv = true → step s = .next t → t.inv = true

/-- What "no fault recorded" is good for (R23, R231): from a sound record, a run that ends clean has no failed exchange in
its log, and every reply in it is as long as its request. `State.inv` is the model's predicate (log entries 3, 5 and 6). -/
def Obligations.CleanRunsHaveNoFailedExchange : Prop :=
  ∀ (n : Nat) (s t : State), s.inv = true → core.run n s = .next t → t.clean = true →
    ∀ e ∈ t.log, ∃ rx, e.rx = .bytes rx ∧ rx.length = e.tx.length

/-! ### Chip registers (20_memory) -/

/-- R53, R60: byte j of a WRITE goes to the register its pointer position addr + j reaches, the last one to reach a
register stands; every register no byte reaches reads as before. This is the reference chip (log entry 5); past 0xFF a position
reaches what the open ADDR_WRAP says (log entry 8), and the pointer is log entry 9. -/
def Obligations.WriteStoresToTheRegistersItReaches : Prop :=
  ∀ (addr : Byte) (values : List Byte) (i : Instr) (s t : State) (rest : List Reply) (rx : List Byte),
    (i = .write addr values ∧ values ≠ [] ∧ values.length ≤ Config.maxData) ∨ (∃ v, values = [v] ∧ i = .write1 addr v) →
    s.replies = .bytes rx :: rest → rx.length = 2 + values.length → exec i s = .next t →
    t.chip.pointer = addr.toNat + values.length ∧
    (∀ j a, j < values.length → registerAt (addr.toNat + j) = some a →
      (∀ l, j < l → l < values.length → registerAt (addr.toNat + l) ≠ some a) →
      some (t.chip.register a) = values[j]?) ∧
    ∀ a, (∀ j, j < values.length → registerAt (addr.toNat + j) ≠ some a) →
      t.chip.register a = s.chip.register a

/-- R59, R60: an operation other than RESET, WRITE and BIT-MODIFY leaves every register of the reference
chip (log entry 5), unless its exchange fails. -/
def Obligations.OtherOperationsLeaveTheChipRegisters : Prop :=
  ∀ (i : Instr) (s t : State), stores i = false → exec i s = .next t → t.result ≠ some (.error .transportFailure) →
    ∀ a, t.chip.register a = s.chip.register a

/-- R60, R63: the reference chip answers an admitted READ with its registers in order, in every state; so a READ after a
WRITE of the same registers gives the bytes written. Both hold whatever the bytes it leaves open are (log entries 5
and 6). -/
def Obligations.ReferenceChipReadsBackWhatWasWritten : Prop :=
  (∀ (addr : Byte) (n : Nat) (s : State) (oracle : List Byte),
    n ≤ Config.maxData → addr.toNat + n ≤ 0x100 → oracle.length = 2 + n →
    ∃ u v bs, attachRefChip oracle (.read addr n) s = some u ∧ exec (.read addr n) u = .next v ∧
      v.result = some (.ok (.bytes bs)) ∧ bs.length = n ∧
      ∀ j, j < n → bs[j]? = some (s.chip.register (addr.toNat + j))) ∧
  ∀ (addr : Byte) (values : List Byte) (s t : State) (rest : List Reply) (rx oracle : List Byte),
    values ≠ [] → values.length ≤ Config.maxData → addr.toNat + values.length ≤ 0x100 →
    s.replies = .bytes rx :: rest → rx.length = 2 + values.length → oracle.length = 2 + values.length →
    exec (.write addr values) s = .next t →
    ∃ u v, attachRefChip oracle (.read addr values.length) t = some u ∧ exec (.read addr values.length) u = .next v ∧
      v.result = some (.ok (.bytes values))

/-- R60: the reference chip (log entry 5) refuses a READ or a WRITE past 0xFF (log entry 8), and the block sends it all the
same (R126, R130). -/
def Obligations.ReferenceChipRefusesBurstsPastTheEnd : Prop :=
  ∀ (addr : Byte) (oracle : List Byte) (s : State),
    (∀ n : Nat, n ≤ Config.maxData → 0x100 < addr.toNat + n → attachRefChip oracle (.read addr n) s = none ∧
      ∃ t r, exec (.read addr n) s = .next t ∧ t.log = s.log ++ [⟨encode (.read addr n), r⟩]) ∧
    ∀ values : List Byte, values.length ≤ Config.maxData → 0x100 < addr.toNat + values.length →
      attachRefChip oracle (.write addr values) s = none ∧
      ∃ t r, exec (.write addr values) s = .next t ∧ t.log = s.log ++ [⟨encode (.write addr values), r⟩]

/-! ### Host sequences (42_host_sequences) -/

/-- R204: with both receive flags clear, `receive()` ends in NoMessage after the one exchange, whatever bits 7:2 hold. The
step index is one on (log entry 17), and the reference chip stays (log entry 5), its pointer too: log entry 9, from R28. -/
def Obligations.ReceiveWithoutFlagEndsAfterOneExchange : Prop :=
  ∀ (skip : Bool) (s : State) (x st : Byte) (rest : List Reply), s.replies = .bytes [x, st] :: rest →
    st.getLsbD 0 = false → st.getLsbD 1 = false →
    receive skip s =
      ⟨afterExchange s.countStep [Config.opcReadStatus, Config.fill] [x, st] rest s.chip (.byte st),
       .ended (.error .noMessage)⟩

/-- R196: a length above 8 ends `receive()` in Malformed after exactly two exchanges, READ-STATUS and the header READ of
the buffer that R194 chooses. That every register of the reference chip is as before rests on R59, R60
and the model's own choice (DESIGN CHOICE, log entry 5) to carry the reference chip in State; R196 does not say it. -/
def Obligations.ReceiveOfAMalformedLengthSendsTwoExchanges : Prop :=
  ∀ (skip : Bool) (s : State) (x st y z h0 h1 h2 h3 h4 : Byte) (rest : List Reply) (b : Bool),
    s.replies = .bytes [x, st] :: .bytes [y, z, h0, h1, h2, h3, h4] :: rest →
    st.getLsbD 0 = !b → (b = true → st.getLsbD 1 = true) → 8 < (h4 &&& 0x0F).toNat →
    (receive skip s).out = .ended (.error .malformed) ∧
    (receive skip s).state.log = s.log ++
      [⟨[Config.opcReadStatus, Config.fill], .bytes [x, st]⟩,
       ⟨Config.opcRead :: (bufferDesc b).sidh :: List.replicate 5 Config.fill, .bytes [y, z, h0, h1, h2, h3, h4]⟩] ∧
    ∀ a, (receive skip s).state.chip.register a = s.chip.register a

/-- R192, R198-R202: `receive()` of a good frame gives its identifier word, length and payload and ends with the
acknowledging BIT-MODIFY: in five exchanges when the payload READ is issued, in four for a frame of length 0 when
`SKIP_EMPTY_READ` holds. -/
def Obligations.ReceiveDeliversTheFrame : Prop :=
  ∀ (s : State) (x st y z h0 h1 h2 h3 h4 u v ctrl : Byte) (ack : List Byte) (rest later : List Reply) (b : Bool),
    s.replies = .bytes [x, st] :: .bytes [y, z, h0, h1, h2, h3, h4] :: .bytes [u, v, ctrl] :: later →
    st.getLsbD 0 = !b → (b = true → st.getLsbD 1 = true) → (h4 &&& 0x0F).toNat ≤ 8 → ack.length = 4 →
    (∀ (skip : Bool) (p q : Byte) (payload : List Byte), later = .bytes (p :: q :: payload) :: .bytes ack :: rest →
      payload.length = (h4 &&& 0x0F).toNat → (payload ≠ [] ∨ skip = false) →
      (∃ f : Frame, (receive skip s).out = .value f ∧ f.identifier.toNat = frameWordValue h0 h1 h2 h3 ctrl ∧
        f.length.toNat = payload.length ∧ f.payload = payload) ∧
      (receive skip s).state.replies = rest ∧
      (receive skip s).state.log.map Exchange.tx = s.log.map Exchange.tx ++
        [[Config.opcReadStatus, Config.fill],
         Config.opcRead :: (bufferDesc b).sidh :: List.replicate 5 Config.fill,
         [Config.opcRead, (bufferDesc b).ctrl, Config.fill],
         Config.opcRead :: (bufferDesc b).data :: List.replicate payload.length Config.fill,
         [Config.opcBitmod, Config.canintf, (bufferDesc b).flag, 0x00]]) ∧
    (later = .bytes ack :: rest → (h4 &&& 0x0F).toNat = 0 →
      (∃ f : Frame, (receive true s).out = .value f ∧ f.identifier.toNat = frameWordValue h0 h1 h2 h3 ctrl ∧
        f.length.toNat = 0 ∧ f.payload = []) ∧
      (receive true s).state.replies = rest ∧
      (receive true s).state.log.map Exchange.tx = s.log.map Exchange.tx ++
        [[Config.opcReadStatus, Config.fill],
         Config.opcRead :: (bufferDesc b).sidh :: List.replicate 5 Config.fill,
         [Config.opcRead, (bufferDesc b).ctrl, Config.fill],
         [Config.opcBitmod, Config.canintf, (bufferDesc b).flag, 0x00]])

/-- R194: with the flag of buffer 0 set, whatever that of buffer 1, `receive()` reads buffer 0's header next, and in the
whole call sends nothing after it that could clear the flag of buffer 1: no BIT-MODIFY of CANINTF whose mask has bit 1, no
WRITE, no RESET. It holds whatever the later answers are. -/
def Obligations.ReceiveTakesBufferZeroFirst : Prop :=
  ∀ (skip : Bool) (s : State) (x st : Byte) (rest : List Reply), s.replies = .bytes [x, st] :: rest →
    st.getLsbD 0 = true → ∃ (r : Reply) (es : List Exchange),
      (receive skip s).state.log = s.log ++ ⟨[Config.opcReadStatus, Config.fill], .bytes [x, st]⟩ ::
        ⟨Config.opcRead :: Config.rxb0sidh :: List.replicate 5 Config.fill, r⟩ :: es ∧
      ∀ e ∈ es, mayClearRx1 e.tx = false

/-- R190, R218, R237: every host sequence ends at its first failed exchange, whichever it is, with TransportFailure and the
fault mark set. For a failed header READ of `receive()`, written out: nothing is sent after it. That a reply of another
length fails and is logged as FAILED is R231 and log entry 3. -/
def Obligations.HostSequencesEndAtAFailedExchange : Prop :=
  (∀ s : State,
    (∀ skip, SeqRun.endsAtFailure s (receive skip s)) ∧
    (∀ m again, SeqRun.endsAtFailure s (requestMode m again s)) ∧
    (∀ table again speed clock, SeqRun.endsAtFailure s (applyBitrate table again speed clock s)) ∧
    (∀ sw slot extended value, SeqRun.endsAtFailure s (setFilter sw slot extended value s) ∧
      SeqRun.endsAtFailure s (setFilterMask sw slot extended value s)) ∧
    SeqRun.endsAtFailure s (hostReset s) ∧
    ∀ table again1 again2 speed clock setters skip n,
      SeqRun.endsAtFailure s (boot table again1 again2 speed clock setters skip n s)) ∧
  ∀ (skip : Bool) (s : State) (x st : Byte) (r : Reply) (rest : List Reply) (b : Bool),
    s.replies = .bytes [x, st] :: r :: rest → st.getLsbD 0 = !b → (b = true → st.getLsbD 1 = true) →
    failsOn (Config.opcRead :: (bufferDesc b).sidh :: List.replicate 5 Config.fill) r →
    (receive skip s).out = .ended (.error .transportFailure) ∧
    (receive skip s).state.fault = some .transportFailure ∧ (receive skip s).state.replies = rest ∧
    (receive skip s).state.log = s.log ++
      [⟨[Config.opcReadStatus, Config.fill], .bytes [x, st]⟩,
       ⟨Config.opcRead :: (bufferDesc b).sidh :: List.replicate 5 Config.fill, .failed⟩]

/-- R206, D25: a mode request that never finds the mode, whatever other modes the polls show, ends in ModeTimeout after
exactly again + 1 polls, `again` being how often the deadline draw says "poll again" (log entry 17). -/
def Obligations.UnconfirmedModeRequestTimesOutAfterItsPolls : Prop :=
  ∀ (m : Mode) (again : Nat) (s : State) (ack : List Byte) (polls : List (Byte × Byte × Byte)) (rest : List Reply),
    ack.length = 4 → polls.length = again + 1 → (∀ p ∈ polls, pollMisses m p) →
    s.replies = .bytes ack :: (polls.map pollReply ++ rest) →
    (requestMode m again s).out = .ended (.error .modeTimeout) ∧
    (requestMode m again s).state.log = s.log ++
      ⟨[Config.opcBitmod, Config.canctrl, 0xE0, modeByte m], .bytes ack⟩ :: polls.map pollExchange

/-- R206: a mode request ends ok at the first poll that shows the mode, after any number of polls that did not, as long as
the deadline draws allow them (log entry 17). -/
def Obligations.ConfirmedModeRequestEndsOk : Prop :=
  ∀ (m : Mode) (again : Nat) (s : State) (ack : List Byte) (misses : List (Byte × Byte × Byte)) (hit : Byte × Byte × Byte)
    (rest : List Reply), ack.length = 4 → misses.length ≤ again → (∀ p ∈ misses, pollMisses m p) → ¬ pollMisses m hit →
    s.replies = .bytes ack :: (misses.map pollReply ++ pollReply hit :: rest) →
    (requestMode m again s).out = .value () ∧ (requestMode m again s).state.replies = rest ∧
    (requestMode m again s).state.log = s.log ++
      ⟨[Config.opcBitmod, Config.canctrl, 0xE0, modeByte m], .bytes ack⟩ :: (misses.map pollExchange ++ [pollExchange hit])

/-- R31, R208: the mode field values, and that the two named requests begin with a BIT-MODIFY of CANCTRL's mode field to
theirs, whatever the answers are. The field values are general knowledge (log entry 11). -/
def Obligations.NamedModeRequestsWriteTheirField : Prop :=
  modeByte .normal = 0x00 ∧ modeByte .sleep = 0x20 ∧ modeByte .loopback = 0x40 ∧ modeByte .listenOnly = 0x60 ∧
  modeByte .configuration = 0x80 ∧ ∀ (again : Nat) (s : State),
    (∃ r es, (requestConfiguration again s).state.log =
      s.log ++ ⟨[Config.opcBitmod, Config.canctrl, 0xE0, 0x80], r⟩ :: es) ∧
    ∃ r es, (requestNormal again s).state.log = s.log ++ ⟨[Config.opcBitmod, Config.canctrl, 0xE0, 0x00], r⟩ :: es

/-- R210, C6: an unsupported pair still performs the mode request, and writes no configuration register. The table
and the deadline draws as arguments are the model's (log entry 17). -/
def Obligations.UnsupportedBitrateWritesNoConfiguration : Prop :=
  ∀ (table : BitrateTable) (again speed clock : Nat) (s : State), lookupBitrate table clock speed = none →
    (applyBitrate table again speed clock s).state = (requestConfiguration again s).state ∧
    ((requestConfiguration again s).out = .value () →
      (applyBitrate table again speed clock s).out = .ended (.error .unsupported))

/-- R210, R212: with an admitted table, a confirmed `applyBitrate(1000 kbps, 16 MHz)` then writes 0x00, 0xD0, 0x82 to CNF1,
CNF2, CNF3 in that order. The table and the deadline draws as arguments are the model's (log entry 17). -/
def Obligations.AdmittedBitrateIsWrittenAfterTheModeRequest : Prop :=
  ∀ (table : BitrateTable) (again : Nat) (s : State) (a b c : List Byte) (rest : List Reply),
    admittedTable table = true → (requestConfiguration again s).out = .value () →
    (requestConfiguration again s).state.replies = .bytes a :: .bytes b :: .bytes c :: rest →
    a.length = 3 → b.length = 3 → c.length = 3 →
    (applyBitrate table again 1000000 16000000 s).out = .value () ∧
    (applyBitrate table again 1000000 16000000 s).state.log = (requestConfiguration again s).state.log ++
      [⟨[Config.opcWrite, Config.cnf1, 0x00], .bytes a⟩, ⟨[Config.opcWrite, Config.cnf2, 0xD0], .bytes b⟩,
       ⟨[Config.opcWrite, Config.cnf3, 0x82], .bytes c⟩]

/-- R214: an invalid slot or index ends the setter at once, with the state untouched. -/
def Obligations.InvalidFilterIndexTouchesNothing : Prop :=
  ∀ (sw : Option (Mode × Nat × Nat)) (slot : Nat) (extended : Bool) (value : Nat) (s : State),
    (6 ≤ slot → setFilter sw slot extended value s = ⟨s, .ended (.error .invalidIndex)⟩) ∧
    (2 ≤ slot → setFilterMask sw slot extended value s = ⟨s, .ended (.error .invalidIndex)⟩)

/-- R214: for every filter and mask base and both formats, a setter refuses an identifier out of range, else writes the four
encoded bytes in one WRITE at the base. Without the OPEN mode switch that WRITE is its only exchange. With it, the setter
requests CONFIGURATION before the WRITE and the previous mode after it, and if CONFIGURATION is not reached ends there. That
ENCID comes before the request is log entry 23. -/
def Obligations.SettersWriteTheEncodedIdentifier : Prop :=
  ∀ (mask : Bool) (slot id : Nat) (extended : Bool) (base : Byte) (s : State),
    (if mask then Config.maskBases else Config.filterBases)[slot]? = some base →
    let bytes := if extended then encodeExt id else encodeStd id
    let run := fun sw => SetterCall.run ⟨mask, slot, extended, id, sw⟩ s
    let encoded := afterValue s.countStep (.bytes bytes)
    ((if extended then 2 ^ 29 else 2 ^ 11) ≤ id → ∀ sw, run sw =
      ⟨afterRefusal s.countStep .idOutOfRange, .ended (.refusal .idOutOfRange)⟩) ∧
    (id < (if extended then 2 ^ 29 else 2 ^ 11) →
      (∀ rx rest, s.replies = .bytes rx :: rest → rx.length = 6 →
        (run none).out = .value () ∧ (run none).state.replies = rest ∧
        (run none).state.log = s.log ++ [⟨Config.opcWrite :: base :: bytes, .bytes rx⟩]) ∧
      ∀ (previous : Mode) (again1 again2 : Nat),
        ((requestConfiguration again1 encoded).out ≠ .value () →
          run (some (previous, again1, again2)) = requestConfiguration again1 encoded) ∧
        ∀ rx rest, (requestConfiguration again1 encoded).out = .value () →
          (requestConfiguration again1 encoded).state.replies = .bytes rx :: rest → rx.length = 6 →
          ∃ u : State, u.replies = rest ∧
            u.log = (requestConfiguration again1 encoded).state.log ++ [⟨Config.opcWrite :: base :: bytes, .bytes rx⟩] ∧
            run (some (previous, again1, again2)) = requestMode previous again2 u)

/-- R216: the host's `reset()` is one RESET, with the two ends R120 and R231 give it. -/
def Obligations.HostResetIsOneReset : Prop :=
  ∀ s : State, ∃ r : Reply, (hostReset s).state.log = s.log ++ [⟨[Config.opcReset], r⟩] ∧
    ((hostReset s).out = .value () ∨ (hostReset s).out = .ended (.error .transportFailure))

/-- R230: the outcome codes. -/
def Obligations.OutcomeCodesAreThoseOfTheTable : Prop :=
  (∀ v, outcomeCode (.ok v) = 0x00) ∧
  outcomeCode (.error .transportFailure) = 0x01 ∧ outcomeCode (.error .malformed) = 0x02 ∧
  outcomeCode (.error .noMessage) = 0x03 ∧ outcomeCode (.error .unsupported) = 0x04 ∧
  outcomeCode (.error .modeTimeout) = 0x05 ∧ outcomeCode (.error .invalidIndex) = 0x06 ∧
  outcomeCode (.refusal .burstTooLong) = 0x10 ∧ outcomeCode (.refusal .emptyWrite) = 0x11 ∧
  outcomeCode (.refusal .commandNotInScope) = 0x12 ∧ outcomeCode (.refusal .idOutOfRange) = 0x13 ∧
  outcomeCode (.refusal .operandRange) = 0x14 ∧ outcomeCode (.refusal .headerLength) = 0x15
end

