-- ==== Sys2Proof/Laws/Decode.lean ====
section
/-! SUPPORT. The small laws of the decoder and encoder: what each fixed first byte leads to, the four bytes of a word, and
the filler bytes. -/

namespace Sys2Proof

/-! ### The first byte picks the row -/

theorem decodeRow_opcReset (rest : List Byte) : decodeRow Config.opcReset rest = decodeBare Config.opcReset .reset rest := rfl
theorem decodeRow_opcReadStatus (rest : List Byte) : decodeRow Config.opcReadStatus rest = decodeReadStatus rest := rfl
theorem decodeRow_opcRead (rest : List Byte) : decodeRow Config.opcRead rest = decodeRead rest := rfl
theorem decodeRow_opcWrite (rest : List Byte) : decodeRow Config.opcWrite rest = decodeWrite rest := rfl
theorem decodeRow_opcBitmod (rest : List Byte) : decodeRow Config.opcBitmod rest = decodeBitmod rest := rfl
theorem decodeRow_decid (rest : List Byte) : decodeRow 0x08 rest = .ok (.decid rest) := rfl
theorem decodeRow_declen (rest : List Byte) : decodeRow 0x09 rest = decodeOneByte 0x09 .declen rest := rfl
theorem decodeRow_chklen (rest : List Byte) : decodeRow 0x0A rest = decodeOneByte 0x0A .chklen rest := rfl
theorem decodeRow_applyrtr (rest : List Byte) : decodeRow 0x0B rest = decodeApplyrtr rest := rfl
theorem decodeRow_encid (rest : List Byte) : decodeRow 0x0C rest = decodeEncid rest := rfl
theorem decodeRow_reservedD (rest : List Byte) : decodeRow 0x0D rest = decodeBare 0x0D .reservedD rest := rfl
theorem decodeRow_reservedE (rest : List Byte) : decodeRow 0x0E rest = decodeBare 0x0E (.reservedEF false) rest := rfl
theorem decodeRow_reservedF (rest : List Byte) : decodeRow 0x0F rest = decodeBare 0x0F (.reservedEF true) rest := rfl

/-! ### The layouts behind it -/

theorem decodeBare_ok {b : Byte} {i j : Instr} {rest : List Byte} (h : decodeBare b j rest = .ok i) :
    rest = [] ∧ i = j := by
  cases rest <;> simp_all [decodeBare]

theorem decodeRead_fillers (addr : Byte) (n : Nat) :
    decodeRead (addr :: List.replicate n Config.fill) = .ok (if n = 1 then .read1 addr else .read addr n) := by
  simp [decodeRead]

theorem fillers_eq_replicate {fs : List Byte} (h : fs.all (· == Config.fill) = true) :
    fs = List.replicate fs.length Config.fill := by
  apply List.eq_replicate_of_mem
  simpa using h

theorem decodeWrite_values (addr : Byte) (values : List Byte) :
    decodeWrite (addr :: values) = .ok (canonical (.write addr values)) := by
  match values with
  | [] => rfl
  | [_] => rfl
  | _ :: _ :: _ => rfl

/-! ### The four bytes of a word -/

theorem wordOfBytes_toNat (a b c d : Byte) :
    (wordOfBytes a b c d).toNat = a.toNat * 2 ^ 24 + b.toNat * 2 ^ 16 + c.toNat * 2 ^ 8 + d.toNat := by
  simp only [wordOfBytes, BitVec.toNat_append]
  rw [← Nat.shiftLeft_add_eq_or_of_lt d.isLt, ← Nat.shiftLeft_add_eq_or_of_lt c.isLt,
    ← Nat.shiftLeft_add_eq_or_of_lt b.isLt]
  simp only [Nat.shiftLeft_eq]
  omega

theorem wordOfBytes_bytesOfWord (w : BitVec 32) :
    wordOfBytes (w.extractLsb' 24 8) (w.extractLsb' 16 8) (w.extractLsb' 8 8) (w.extractLsb' 0 8) = w := by
  apply BitVec.eq_of_toNat_eq
  rw [wordOfBytes_toNat]
  simp only [BitVec.extractLsb'_toNat, Nat.shiftRight_eq_div_pow]
  have := w.isLt
  omega

theorem bytesOfWord_wordOfBytes (a b c d : Byte) : bytesOfWord (wordOfBytes a b c d) = [a, b, c, d] := by
  have ha := a.isLt
  have hb := b.isLt
  have hc := c.isLt
  have hd := d.isLt
  simp only [bytesOfWord, List.cons.injEq, and_true]
  refine ⟨?_, ?_, ?_, ?_⟩ <;> apply BitVec.eq_of_toNat_eq <;>
    simp only [BitVec.extractLsb'_toNat, Nat.shiftRight_eq_div_pow, wordOfBytes_toNat] <;> omega

end Sys2Proof
end

