-- ==== Sys2Proof/Laws/Memory.lean ====
section
/-! SUPPORT. The laws of the chip's registers: read after write, the frame of a write, and that every operation keeps the
canonical form. -/

namespace Sys2Proof.Machine

@[simp] theorem Memory.read_nil (a : Nat) : Memory.read [] a = none := rfl

theorem Memory.read_write_same (m : Memory) (a : Nat) (b : Byte) : Memory.read (Memory.write m a b) a = some b := by
  induction m with
  | nil => simp [Memory.write, Memory.read]
  | cons c m ih =>
    obtain ⟨a', b'⟩ := c
    simp only [Memory.write]
    split
    · simp [Memory.read]
    · split
      · simp [Memory.read]
      · simp [Memory.read, *]

theorem Memory.read_write_other (m : Memory) {a x : Nat} (b : Byte) (h : x ≠ a) :
    Memory.read (Memory.write m a b) x = Memory.read m x := by
  induction m with
  | nil => simp [Memory.write, Memory.read, h]
  | cons c m ih =>
    obtain ⟨a', b'⟩ := c
    simp only [Memory.write]
    split
    · simp [Memory.read, h]
    · split
      · subst_vars; simp [Memory.read, h]
      · simp [Memory.read, ih]

theorem Memory.wfFrom_write {m : Memory} {lo a : Nat} (b : Byte) (hm : Memory.wfFrom lo m = true) (hlo : lo ≤ a)
    (ha : a < 256) : Memory.wfFrom lo (Memory.write m a b) = true := by
  induction m generalizing lo with
  | nil => simp [Memory.write, Memory.wfFrom, hlo, ha]
  | cons c m ih =>
    obtain ⟨a', b'⟩ := c
    simp only [Memory.wfFrom, Bool.and_eq_true, decide_eq_true_eq] at hm
    obtain ⟨⟨h1, h2⟩, h3⟩ := hm
    simp only [Memory.write]
    split
    · rename_i h
      simp [Memory.wfFrom, hlo, ha, h2, h3]
      omega
    · split
      · subst_vars; simp [Memory.wfFrom, hlo, ha, h3]
      · simp [Memory.wfFrom, h1, h2, ih h3 (by omega)]

theorem Memory.wf_nil : Memory.wf [] = true := rfl

theorem Memory.wf_write {m : Memory} {a : Nat} (b : Byte) (hm : Memory.wf m = true) (ha : a < 256) :
    Memory.wf (Memory.write m a b) = true := Memory.wfFrom_write b hm (Nat.zero_le a) ha

theorem registerAt_within {p : Nat} (h : p ≤ 0xFF) : registerAt p = some p := by simp [registerAt, h]

theorem registerAt_lt {p a : Nat} (h : registerAt p = some a) : a < 256 := by
  unfold registerAt at h
  split at h
  · simp at h; omega
  · cases hw : Config.addrWrap p with
    | none => simp [hw] at h
    | some b => simp [hw] at h; omega

theorem wf_storeAt {m : Memory} (p : Nat) (b : Byte) (hm : Memory.wf m = true) : Memory.wf (storeAt m p b) = true := by
  unfold storeAt
  split
  · exact Memory.wf_write b hm (registerAt_lt ‹_›)
  · exact hm

theorem Chip.wf_storeBytes {c : Chip} (bs : List Byte) (h : Memory.wf c.regs = true) :
    Memory.wf (Chip.storeBytes c bs).regs = true := by
  induction bs generalizing c with
  | nil => exact h
  | cons b bs ih => exact ih (wf_storeAt _ _ h)

theorem Chip.wf_write {c : Chip} (addr : Byte) (data : List Byte) (h : Memory.wf c.regs = true) :
    Memory.wf (c.write addr data).regs = true := Chip.wf_storeBytes _ h

theorem Chip.wf_bitModify {c : Chip} (addr mask data : Byte) (h : Memory.wf c.regs = true) :
    Memory.wf (c.bitModify addr mask data).regs = true := Memory.wf_write _ h addr.isLt

@[simp] theorem Chip.readPast_regs (c : Chip) (addr : Byte) (n : Nat) : (c.readPast addr n).regs = c.regs := rfl
@[simp] theorem Chip.readPast_pointer (c : Chip) (addr : Byte) (n : Nat) :
    (c.readPast addr n).pointer = addr.toNat + n := rfl
@[simp] theorem Chip.readPast_epoch (c : Chip) (addr : Byte) (n : Nat) : (c.readPast addr n).epoch = c.epoch := rfl
@[simp] theorem Chip.unknown_regs (draw : Nat) : (Chip.unknown draw).regs = [] := rfl
@[simp] theorem Chip.unknown_epoch (draw : Nat) : (Chip.unknown draw).epoch = draw + 1 := rfl
@[simp] theorem Chip.bitModify_pointer (c : Chip) (addr mask data : Byte) :
    (c.bitModify addr mask data).pointer = c.pointer := rfl
@[simp] theorem Chip.bitModify_epoch (c : Chip) (addr mask data : Byte) :
    (c.bitModify addr mask data).epoch = c.epoch := rfl

/-! ### The register array of R60 -/

theorem Chip.register_of_read {c : Chip} {a : Nat} {b : Byte} (h : Memory.read c.regs a = some b) : c.register a = b := by
  simp [Chip.register, h]

/-- The array is what was stored and the oracle values of one epoch. -/
theorem Chip.register_congr {c d : Chip} {a : Nat} (he : c.epoch = d.epoch)
    (hr : Memory.read c.regs a = Memory.read d.regs a) : c.register a = d.register a := by
  simp [Chip.register, he, hr]

theorem Chip.bitModify_register_same (c : Chip) (addr mask data : Byte) :
    (c.bitModify addr mask data).register addr.toNat = maskedByte (c.register addr.toNat) mask data :=
  Chip.register_of_read (Memory.read_write_same _ _ _)

theorem Chip.bitModify_register_other (c : Chip) (addr mask data : Byte) {a : Nat} (h : a ≠ addr.toNat) :
    (c.bitModify addr mask data).register a = c.register a :=
  Chip.register_congr rfl (Memory.read_write_other _ _ h)

/-- A store reaches the register of its position. -/
theorem read_storeAt_same {m : Memory} {p a : Nat} (b : Byte) (h : registerAt p = some a) :
    Memory.read (storeAt m p b) a = some b := by
  simp [storeAt, h, Memory.read_write_same]

/-- A store reaches no other register. -/
theorem read_storeAt_other {m : Memory} {p a : Nat} (b : Byte) (h : registerAt p ≠ some a) :
    Memory.read (storeAt m p b) a = Memory.read m a := by
  unfold storeAt
  split
  · rename_i x hx
    exact Memory.read_write_other _ _ (by rintro rfl; exact h hx)
  · rfl

@[simp] theorem Chip.storeBytes_epoch (c : Chip) (bs : List Byte) : (Chip.storeBytes c bs).epoch = c.epoch := by
  induction bs generalizing c with
  | nil => rfl
  | cons b bs ih => exact ih _

@[simp] theorem Chip.storeBytes_pointer (c : Chip) (bs : List Byte) :
    (Chip.storeBytes c bs).pointer = c.pointer + bs.length := by
  induction bs generalizing c with
  | nil => rfl
  | cons b bs ih => simp only [Chip.storeBytes, ih, List.length_cons]; omega

end Sys2Proof.Machine
end

