-- ==== Sys2Proof/Laws/State.lean ====
section
/-! SUPPORT. What each named update of the state does to each field. -/

namespace Sys2Proof.Machine

@[simp] theorem State.answer_requests (o : OpResult) (s : State) : (s.answer o).requests = s.requests := rfl
@[simp] theorem State.answer_k (o : OpResult) (s : State) : (s.answer o).k = s.k := rfl
@[simp] theorem State.answer_replies (o : OpResult) (s : State) : (s.answer o).replies = s.replies := rfl
@[simp] theorem State.answer_draws (o : OpResult) (s : State) : (s.answer o).draws = s.draws := rfl
@[simp] theorem State.answer_log (o : OpResult) (s : State) : (s.answer o).log = s.log := rfl
@[simp] theorem State.answer_fault (o : OpResult) (s : State) : (s.answer o).fault = s.fault := rfl
@[simp] theorem State.answer_refused (o : OpResult) (s : State) : (s.answer o).refused = s.refused := rfl
@[simp] theorem State.answer_result (o : OpResult) (s : State) : (s.answer o).result = some o := rfl
@[simp] theorem State.answer_chip (o : OpResult) (s : State) : (s.answer o).chip = s.chip := rfl

@[simp] theorem State.markRefused_requests (r : RefusalReason) (s : State) : (s.markRefused r).requests = s.requests := rfl
@[simp] theorem State.markRefused_k (r : RefusalReason) (s : State) : (s.markRefused r).k = s.k := rfl
@[simp] theorem State.markRefused_replies (r : RefusalReason) (s : State) : (s.markRefused r).replies = s.replies := rfl
@[simp] theorem State.markRefused_draws (r : RefusalReason) (s : State) : (s.markRefused r).draws = s.draws := rfl
@[simp] theorem State.markRefused_log (r : RefusalReason) (s : State) : (s.markRefused r).log = s.log := rfl
@[simp] theorem State.markRefused_fault (r : RefusalReason) (s : State) : (s.markRefused r).fault = s.fault := rfl
@[simp] theorem State.markRefused_refused (r : RefusalReason) (s : State) : (s.markRefused r).refused = some r := rfl
@[simp] theorem State.markRefused_result (r : RefusalReason) (s : State) : (s.markRefused r).result = s.result := rfl
@[simp] theorem State.markRefused_chip (r : RefusalReason) (s : State) : (s.markRefused r).chip = s.chip := rfl

@[simp] theorem State.markFault_requests (s : State) : (s.markFault).requests = s.requests := rfl
@[simp] theorem State.markFault_k (s : State) : (s.markFault).k = s.k := rfl
@[simp] theorem State.markFault_replies (s : State) : (s.markFault).replies = s.replies := rfl
@[simp] theorem State.markFault_draws (s : State) : (s.markFault).draws = s.draws := rfl
@[simp] theorem State.markFault_log (s : State) : (s.markFault).log = s.log := rfl
@[simp] theorem State.markFault_fault (s : State) : (s.markFault).fault = some .transportFailure := rfl
@[simp] theorem State.markFault_refused (s : State) : (s.markFault).refused = s.refused := rfl
@[simp] theorem State.markFault_result (s : State) : (s.markFault).result = s.result := rfl
@[simp] theorem State.markFault_chip (s : State) : (s.markFault).chip = s.chip := rfl

@[simp] theorem State.logExchange_requests (tx : List Byte) (rx : Reply) (s : State) : (s.logExchange tx rx).requests = s.requests := rfl
@[simp] theorem State.logExchange_k (tx : List Byte) (rx : Reply) (s : State) : (s.logExchange tx rx).k = s.k := rfl
@[simp] theorem State.logExchange_replies (tx : List Byte) (rx : Reply) (s : State) : (s.logExchange tx rx).replies = s.replies := rfl
@[simp] theorem State.logExchange_draws (tx : List Byte) (rx : Reply) (s : State) : (s.logExchange tx rx).draws = s.draws := rfl
@[simp] theorem State.logExchange_log (tx : List Byte) (rx : Reply) (s : State) : (s.logExchange tx rx).log = s.log ++ [⟨tx, rx⟩] := rfl
@[simp] theorem State.logExchange_fault (tx : List Byte) (rx : Reply) (s : State) : (s.logExchange tx rx).fault = s.fault := rfl
@[simp] theorem State.logExchange_refused (tx : List Byte) (rx : Reply) (s : State) : (s.logExchange tx rx).refused = s.refused := rfl
@[simp] theorem State.logExchange_result (tx : List Byte) (rx : Reply) (s : State) : (s.logExchange tx rx).result = s.result := rfl
@[simp] theorem State.logExchange_chip (tx : List Byte) (rx : Reply) (s : State) : (s.logExchange tx rx).chip = s.chip := rfl

@[simp] theorem State.consumeReply_requests (s : State) : (s.consumeReply).requests = s.requests := rfl
@[simp] theorem State.consumeReply_k (s : State) : (s.consumeReply).k = s.k := rfl
@[simp] theorem State.consumeReply_replies (s : State) : (s.consumeReply).replies = s.replies.tail := rfl
@[simp] theorem State.consumeReply_draws (s : State) : (s.consumeReply).draws = s.draws + 1 := rfl
@[simp] theorem State.consumeReply_log (s : State) : (s.consumeReply).log = s.log := rfl
@[simp] theorem State.consumeReply_fault (s : State) : (s.consumeReply).fault = s.fault := rfl
@[simp] theorem State.consumeReply_refused (s : State) : (s.consumeReply).refused = s.refused := rfl
@[simp] theorem State.consumeReply_result (s : State) : (s.consumeReply).result = s.result := rfl
@[simp] theorem State.consumeReply_chip (s : State) : (s.consumeReply).chip = s.chip := rfl

@[simp] theorem State.countStep_requests (s : State) : (s.countStep).requests = s.requests := rfl
@[simp] theorem State.countStep_k (s : State) : (s.countStep).k = s.k + 1 := rfl
@[simp] theorem State.countStep_replies (s : State) : (s.countStep).replies = s.replies := rfl
@[simp] theorem State.countStep_draws (s : State) : (s.countStep).draws = s.draws := rfl
@[simp] theorem State.countStep_log (s : State) : (s.countStep).log = s.log := rfl
@[simp] theorem State.countStep_fault (s : State) : (s.countStep).fault = s.fault := rfl
@[simp] theorem State.countStep_refused (s : State) : (s.countStep).refused = s.refused := rfl
@[simp] theorem State.countStep_result (s : State) : (s.countStep).result = s.result := rfl
@[simp] theorem State.countStep_chip (s : State) : (s.countStep).chip = s.chip := rfl

@[simp] theorem State.setChip_requests (c : Chip) (s : State) : (s.setChip c).requests = s.requests := rfl
@[simp] theorem State.setChip_k (c : Chip) (s : State) : (s.setChip c).k = s.k := rfl
@[simp] theorem State.setChip_replies (c : Chip) (s : State) : (s.setChip c).replies = s.replies := rfl
@[simp] theorem State.setChip_draws (c : Chip) (s : State) : (s.setChip c).draws = s.draws := rfl
@[simp] theorem State.setChip_log (c : Chip) (s : State) : (s.setChip c).log = s.log := rfl
@[simp] theorem State.setChip_fault (c : Chip) (s : State) : (s.setChip c).fault = s.fault := rfl
@[simp] theorem State.setChip_refused (c : Chip) (s : State) : (s.setChip c).refused = s.refused := rfl
@[simp] theorem State.setChip_result (c : Chip) (s : State) : (s.setChip c).result = s.result := rfl
@[simp] theorem State.setChip_chip (c : Chip) (s : State) : (s.setChip c).chip = c := rfl

@[simp] theorem State.placeRequest_requests (r : List Byte) (s : State) : (placeRequest r s).requests = r :: s.requests := rfl
@[simp] theorem State.placeRequest_k (r : List Byte) (s : State) : (placeRequest r s).k = s.k := rfl
@[simp] theorem State.placeRequest_replies (r : List Byte) (s : State) : (placeRequest r s).replies = s.replies := rfl
@[simp] theorem State.placeRequest_draws (r : List Byte) (s : State) : (placeRequest r s).draws = s.draws := rfl
@[simp] theorem State.placeRequest_log (r : List Byte) (s : State) : (placeRequest r s).log = s.log := rfl
@[simp] theorem State.placeRequest_fault (r : List Byte) (s : State) : (placeRequest r s).fault = s.fault := rfl
@[simp] theorem State.placeRequest_refused (r : List Byte) (s : State) : (placeRequest r s).refused = s.refused := rfl
@[simp] theorem State.placeRequest_result (r : List Byte) (s : State) : (placeRequest r s).result = s.result := rfl
@[simp] theorem State.placeRequest_chip (r : List Byte) (s : State) : (placeRequest r s).chip = s.chip := rfl

/-- Two states with the same fields are one. -/
theorem State.eq_of_fields {s t : State} (h1 : s.requests = t.requests) (h2 : s.k = t.k) (h3 : s.replies = t.replies)
    (h4 : s.draws = t.draws) (h5 : s.log = t.log) (h6 : s.fault = t.fault) (h7 : s.refused = t.refused)
    (h8 : s.result = t.result) (h9 : s.chip = t.chip) : s = t := by
  cases s; cases t; simp_all

end Sys2Proof.Machine
end

