-- ==== Sys2Proof/Laws/Ops.lean ====
section
/-! SUPPORT. What each shared operation can do: cite these and leave the operations folded. -/

namespace Sys2Proof.Machine

@[simp] theorem finishOk_eq (v : Value) (s : State) : finishOk v s = .next (s.answer (.ok v)) := rfl
@[simp] theorem raiseError_eq (e : ErrorOutcome) (s : State) : raiseError e s = .next (s.answer (.error e)) := rfl
@[simp] theorem refuse_eq (r : RefusalReason) (s : State) :
    refuse r s = .next ((s.markRefused r).answer (.refusal r)) := rfl

/-! ### The accepted reply -/

@[simp] theorem acceptReply_failed (tx : List Byte) : acceptReply tx .failed = .failed := rfl

theorem acceptReply_right {tx rx : List Byte} (h : rx.length = tx.length) : acceptReply tx (.bytes rx) = .bytes rx := by
  simp [acceptReply, h]

theorem acceptReply_wrong {tx rx : List Byte} (h : rx.length ≠ tx.length) : acceptReply tx (.bytes rx) = .failed := by
  simp [acceptReply, h]

/-- An accepted reply has the length of the request. -/
theorem acceptReply_length {tx rx : List Byte} {r : Reply} (h : acceptReply tx r = .bytes rx) :
    rx.length = tx.length := by
  cases r with
  | failed => simp at h
  | bytes rx' =>
    simp only [acceptReply] at h
    split at h
    · cases h; assumption
    · cases h

theorem oracleReply_scripted {tx : List Byte} {s : State} {r : Reply} {rest : List Reply} (h : s.replies = r :: rest) :
    oracleReply tx s = r := by simp [oracleReply, h]

/-! ### The exchange -/

/-- A command always answers a next state. -/
theorem command_next (tx : List Byte) (effect : Chip → Chip) (value : List Byte → Value) (s : State) :
    command tx effect value s = .next (finishExchange tx effect value s (acceptReply tx (oracleReply tx s))) := rfl

/-- Everything a command can do: a completed exchange, or a failed one. -/
theorem command_cases {tx : List Byte} {effect : Chip → Chip} {value : List Byte → Value} {s t : State}
    (h : command tx effect value s = .next t) :
    (∃ rx, acceptReply tx (oracleReply tx s) = .bytes rx ∧ rx.length = tx.length ∧
      t = ((s.consumeReply.logExchange tx (.bytes rx)).setChip (effect s.chip)).answer (.ok (value rx))) ∨
    (acceptReply tx (oracleReply tx s) = .failed ∧
      t = ((s.consumeReply.logExchange tx .failed).markFault.setChip
        (Chip.unknown s.draws)).answer (.error .transportFailure)) := by
  rw [command_next] at h
  cases hr : acceptReply tx (oracleReply tx s) with
  | failed => exact .inr ⟨rfl, by simpa [hr, finishExchange] using h.symm⟩
  | bytes rx => exact .inl ⟨rx, rfl, acceptReply_length hr, by simpa [hr, finishExchange] using h.symm⟩

/-- A command whose reply stands in State with the right length. -/
theorem command_completes {tx rx : List Byte} {rest : List Reply} (effect : Chip → Chip) (value : List Byte → Value)
    {s : State} (hr : s.replies = .bytes rx :: rest) (hl : rx.length = tx.length) :
    command tx effect value s =
      .next (((s.consumeReply.logExchange tx (.bytes rx)).setChip (effect s.chip)).answer (.ok (value rx))) := by
  rw [command_next, oracleReply_scripted hr, acceptReply_right hl]; rfl

/-! ### The request port -/

theorem takeRequest_nil {s : State} (h : s.requests = []) : takeRequest s = none := by simp [takeRequest, h]

theorem takeRequest_cons {s : State} {r : List Byte} {rest : List (List Byte)} (h : s.requests = r :: rest) :
    takeRequest s = some (r, { s with requests := rest, k := s.k + 1 }) := by simp [takeRequest, h]

theorem takeRequest_placed (r : List Byte) (s : State) :
    takeRequest (placeRequest r s) = some (r, { s with k := s.k + 1 }) := rfl

end Sys2Proof.Machine
end

