-- ==== Sys2Proof/Laws/Exec.lean ====
section
/-! SUPPORT. One lemma for every operation that exchanges, and one for every operation that does not: cite these instead of
splitting `exec` again. -/

namespace Sys2Proof.Machine

/-- An operation that sends is the shared command over its own words. -/
theorem exec_of_sends {i : Instr} (h : sends i = true) (s : State) :
    ∃ (effect : Chip → Chip) (value : List Byte → Value), exec i s = command (encode i) effect value s := by
  cases i with
  | reset => exact ⟨_, _, rfl⟩
  | rdstat => exact ⟨_, _, rfl⟩
  | read1 addr => exact ⟨_, _, rfl⟩
  | read addr n =>
    have hn : countOutOfRange n = false := by simpa [sends] using h
    exact ⟨_, _, by simp only [exec, execRead, hn, Bool.false_eq_true, if_false]; rfl⟩
  | write1 addr value => exact ⟨_, _, rfl⟩
  | write addr values =>
    have hv : writeRefusal values = none := by simpa [sends] using h
    exact ⟨_, _, by simp only [exec, execWrite, hv]; rfl⟩
  | bitmod addr mask data => exact ⟨_, _, rfl⟩
  | rts | loadtx | readrx | decid | declen | chklen | applyrtr | encidStd | encidExt | reservedD | reservedEF =>
    simp [sends] at h

/-- What an operation that sends nothing ends in: a refusal, or an outcome that records nothing and is no transport failure. -/
inductive Quiet (s : State) : State → Prop where
  | refusal (r : RefusalReason) : Quiet s ((s.markRefused r).answer (.refusal r))
  | outcome (o : OpResult) (h : ∀ r, o ≠ .refusal r) (hf : o ≠ .error .transportFailure) : Quiet s (s.answer o)

/-- An operation that does not send answers a next state that differs at most in the refusal mark and the result port. -/
theorem exec_of_not_sends {i : Instr} (h : sends i = false) (s : State) : ∃ t, exec i s = .next t ∧ Quiet s t := by
  cases i with
  | reset | rdstat | read1 | write1 | bitmod => simp [sends] at h
  | read addr n =>
    have hn : countOutOfRange n = true := by simpa [sends] using h
    exact ⟨_, by simp only [exec, execRead, hn, if_true]; rfl, .refusal _⟩
  | write addr values =>
    cases hv : writeRefusal values with
    | none => simp [sends, hv] at h
    | some r => exact ⟨_, by simp only [exec, execWrite, hv]; rfl, .refusal r⟩
  | rts | loadtx | readrx | reservedD | reservedEF => exact ⟨_, rfl, .refusal _⟩
  | declen | applyrtr => exact ⟨_, rfl, .outcome _ (by simp) (by simp)⟩
  | decid hdr =>
    match hdr with
    | [h0, h1, h2, h3, h4] => exact ⟨_, rfl, .outcome _ (by simp [decodeIdentifier]) (by simp [decodeIdentifier])⟩
    | [] | [_] | [_, _] | [_, _, _] | [_, _, _, _] | _ :: _ :: _ :: _ :: _ :: _ :: _ => exact ⟨_, rfl, .refusal _⟩
  | chklen len =>
    simp only [exec, execChklen]
    split
    · exact ⟨_, rfl, .refusal _⟩
    · split
      · exact ⟨_, rfl, .outcome _ (by simp) (by simp)⟩
      · exact ⟨_, rfl, .outcome _ (by simp) (by simp)⟩
  | encidStd id =>
    simp only [exec, execEncidStd]
    split
    · exact ⟨_, rfl, .refusal _⟩
    · exact ⟨_, rfl, .outcome _ (by simp) (by simp)⟩
  | encidExt id =>
    simp only [exec, execEncidExt]
    split
    · exact ⟨_, rfl, .refusal _⟩
    · exact ⟨_, rfl, .outcome _ (by simp) (by simp)⟩

end Sys2Proof.Machine
end

