-- ==== Sys2Proof/Laws/HostSequences.lean ====
section
/-! SUPPORT. What one operation of a host sequence can do, and that ending at the first failed exchange goes over from the
parts of a sequence to the whole. -/

namespace Sys2Proof.Machine

/-- One operation of a sequence, once it is known what `exec` answers. -/
theorem perform_of_exec {α : Type} {f : Value → Option α} {i : Instr} {s t : State} (h : exec i s.countStep = .next t) :
    perform f i s = ⟨t, portValue f t.result⟩ := by
  simp only [perform, h]

/-! ### Going on -/

@[simp] theorem SeqRun.andThen_value {α β : Type} (s : State) (a : α) (f : α → State → SeqRun β) :
    SeqRun.andThen ⟨s, .value a⟩ f = f a s := rfl
@[simp] theorem SeqRun.andThen_ended {α β : Type} (s : State) (o : OpResult) (f : α → State → SeqRun β) :
    SeqRun.andThen ⟨s, .ended o⟩ f = ⟨s, .ended o⟩ := rfl
@[simp] theorem SeqRun.andThen_noOutcome {α β : Type} (s : State) (f : α → State → SeqRun β) :
    SeqRun.andThen ⟨s, .noOutcome⟩ f = ⟨s, .noOutcome⟩ := rfl

/-- A value read from the port is never an end. -/
theorem portValue_ok_ne_ended {α : Type} (f : Value → Option α) (v : Value) (o : OpResult) :
    portValue f (some (.ok v)) ≠ .ended o := by
  simp only [portValue]; split <;> simp

/-! ### Ending at the first failed exchange -/

theorem endsAtFailure_pure {α : Type} {s : State} {o : SeqOut α} (h : o ≠ .ended (.error .transportFailure)) :
    SeqRun.endsAtFailure s ⟨s, o⟩ := ⟨[], by simp, by simp, by simpa using h, fun h' => absurd h' h⟩

theorem endsAtFailure_perform {α : Type} {f : Value → Option α} {i : Instr} {s : State} :
    SeqRun.endsAtFailure s (perform f i s) := by
  cases hs : sends i with
  | true =>
    obtain ⟨effect, value, he⟩ := exec_of_sends hs s.countStep
    rw [command_next] at he
    rw [perform_of_exec he]
    cases acceptReply (encode i) (oracleReply (encode i) s.countStep) with
    | failed => exact ⟨[⟨encode i, .failed⟩], rfl, by simp, by simp [Exchange.isFailed, portValue, finishExchange],
        fun _ => rfl⟩
    | bytes rx =>
      have hv := portValue_ok_ne_ended f (value rx) (.error .transportFailure)
      exact ⟨[⟨encode i, .bytes rx⟩], rfl, by simp, by simpa [Exchange.isFailed, finishExchange] using hv,
        fun h => absurd h hv⟩
  | false =>
    obtain ⟨t, ht, q⟩ := exec_of_not_sends hs s.countStep
    rw [perform_of_exec ht]
    have hr : portValue f t.result ≠ .ended (.error .transportFailure) := by
      cases q with
      | refusal r => simp [portValue]
      | outcome o h hf =>
        cases o with
        | ok v => exact portValue_ok_ne_ended f v _
        | error e => simpa [portValue] using hf
        | refusal r => exact absurd rfl (h r)
    refine ⟨[], ?_, by simp, by simpa using hr, fun h => absurd h hr⟩
    cases q <;> simp

theorem endsAtFailure_andThen {α β : Type} {s : State} {r : SeqRun α} {f : α → State → SeqRun β}
    (h : SeqRun.endsAtFailure s r) (hf : ∀ a t, SeqRun.endsAtFailure t (f a t)) :
    SeqRun.endsAtFailure s (r.andThen f) := by
  obtain ⟨es, hlog, hlast, hiff, hmark⟩ := h
  obtain ⟨st, out⟩ := r
  cases out with
  | ended o => exact ⟨es, hlog, hlast, by simpa using hiff, by simpa using hmark⟩
  | noOutcome => exact ⟨es, hlog, hlast, by simpa using hiff, by simp⟩
  | value a =>
    obtain ⟨es', hlog', hlast', hiff', hmark'⟩ := hf a st
    have hno : es.any Exchange.isFailed = false := by simpa using hiff
    refine ⟨es ++ es', ?_, ?_, by rw [List.any_append, hno, Bool.false_or]; exact hiff', hmark'⟩
    · rw [SeqRun.andThen_value, hlog', ← List.append_assoc]
      exact congrArg (· ++ es') hlog
    · have hall : ∀ e ∈ es, e.isFailed = false := by simpa using hno
      intro e he
      rcases List.eq_nil_or_concat es' with rfl | ⟨ys, y, rfl⟩
      · exact hall e (List.dropLast_subset _ (by simpa using he))
      · rw [List.concat_eq_append] at hlast' he
        rw [← List.append_assoc, List.dropLast_concat] at he
        rw [List.dropLast_concat] at hlast'
        rcases List.mem_append.1 he with he | he
        · exact hall e he
        · exact hlast' e he

end Sys2Proof.Machine
end

