-- ==== Sys2Proof/Laws/PerInstr.lean ====
section
/-! SUPPORT. A law of every operation as syntax: the first byte of its words matches its row of spec/opcode_table.json. -/

namespace Sys2Proof.Laws.EncodedRow

/-- Whether a byte matches the row (match, mask) of the table. -/
def fits (m mask b : Byte) : Bool := b &&& mask == m

/-- The row's match and mask in spec/opcode_table.json. -/
def row : Instr → Byte × Byte
  | .reset => (0xC0, 0xFF)
  | .rdstat => (0xA0, 0xFF)
  | .read1 _ => (0x03, 0xFF)
  | .read _ _ => (0x03, 0xFF)
  | .write1 _ _ => (0x02, 0xFF)
  | .write _ _ => (0x02, 0xFF)
  | .bitmod _ _ _ => (0x05, 0xFF)
  | .rts _ => (0x80, 0xF8)
  | .loadtx _ => (0x40, 0xF8)
  | .readrx _ => (0x90, 0xF9)
  | .decid _ => (0x08, 0x0F)
  | .declen _ => (0x09, 0x0F)
  | .chklen _ => (0x0A, 0x0F)
  | .applyrtr _ _ => (0x0B, 0x0F)
  | .encidStd _ => (0x0C, 0x0F)
  | .encidExt _ => (0x0C, 0x0F)
  | .reservedD => (0x0D, 0x0F)
  | .reservedEF _ => (0x0E, 0x0E)

/-- The words begin with a byte that matches the operation's row. -/
def Statement (i : Instr) : Prop := ∃ b rest, encode i = b :: rest ∧ fits (row i).1 (row i).2 b = true

theorem reset : Statement .reset := ⟨_, _, rfl, by simp only [row]; decide⟩
theorem rdstat : Statement .rdstat := ⟨_, _, rfl, by simp only [row]; decide⟩
theorem read1 (addr : Byte) : Statement (.read1 addr) := ⟨_, _, rfl, by simp only [row]; decide⟩
theorem read (addr : Byte) (n : Int) : Statement (.read addr n) := ⟨_, _, rfl, by simp only [row]; decide⟩
theorem write1 (addr value : Byte) : Statement (.write1 addr value) := ⟨_, _, rfl, by simp only [row]; decide⟩
theorem write (addr : Byte) (values : List Byte) : Statement (.write addr values) := ⟨_, _, rfl, by simp only [row]; decide⟩
theorem bitmod (addr mask data : Byte) : Statement (.bitmod addr mask data) := ⟨_, _, rfl, by simp only [row]; decide⟩
theorem rts (t : BitVec 3) : Statement (.rts t) := ⟨_, _, rfl, by revert t; decide⟩
theorem loadtx (abc : BitVec 3) : Statement (.loadtx abc) := ⟨_, _, rfl, by revert abc; decide⟩
theorem readrx (nm : BitVec 2) : Statement (.readrx nm) := ⟨_, _, rfl, by revert nm; decide⟩
theorem decid (hdr : List Byte) : Statement (.decid hdr) := ⟨_, _, rfl, by simp only [row]; decide⟩
theorem declen (b : Byte) : Statement (.declen b) := ⟨_, _, rfl, by simp only [row]; decide⟩
theorem chklen (len : Byte) : Statement (.chklen len) := ⟨_, _, rfl, by simp only [row]; decide⟩
theorem applyrtr (idw : IdWord) (ctrl : Byte) : Statement (.applyrtr idw ctrl) := ⟨_, _, rfl, by simp only [row]; decide⟩
theorem encidStd (id : Nat) : Statement (.encidStd id) := ⟨_, _, rfl, by simp only [row]; decide⟩
theorem encidExt (id : Nat) : Statement (.encidExt id) := ⟨_, _, rfl, by simp only [row]; decide⟩
theorem reservedD : Statement .reservedD := ⟨_, _, rfl, by simp only [row]; decide⟩
theorem reservedEF (low : Bool) : Statement (.reservedEF low) := ⟨_, _, rfl, by revert low; decide⟩

end Sys2Proof.Laws.EncodedRow
end

