-- ==== Sys2Proof/Laws/Step.lean ====
section
/-! SUPPORT. Everything a step can do, and the induction over runs, packaged once. -/

namespace Sys2Proof.Machine

/-- A step waits, or performs the operation that the request at the head of the port decodes to. -/
theorem step_cases {s t : State} (h : step s = .next t) :
    (s.requests = [] ∧ t = s) ∨
    ∃ r rest i, s.requests = r :: rest ∧ decode r = .ok i ∧
      exec i { s with requests := rest, k := s.k + 1 } = .next t := by
  cases hr : s.requests with
  | nil =>
    simp only [step, takeRequest_nil hr, Host.Outcome.next.injEq] at h
    exact .inl ⟨rfl, h.symm⟩
  | cons r rest =>
    simp only [step, takeRequest_cons hr, runRequest] at h
    cases hd : decode r with
    | error why => simp [hd] at h
    | ok i => exact .inr ⟨r, rest, i, rfl, hd, by simpa [hd] using h⟩

/-- The first step of a run that goes through, on any machine. -/
theorem run_succ_of (M : Host.Core) {n : Nat} {s t : M.State} (h : M.run (n + 1) s = .next t) :
    ∃ u, M.step s = .next u ∧ M.run n u = .next t := by
  rw [Host.Core.run] at h
  cases hs : M.step s with
  | next u => rw [hs] at h; exact ⟨u, rfl, h⟩
  | fault r => rw [hs] at h; cases h
  | refused r => rw [hs] at h; cases h

/-- The first step of a run that goes through. -/
theorem core_run_succ {n : Nat} {s t : State} (h : core.run (n + 1) s = .next t) :
    ∃ u, step s = .next u ∧ core.run n u = .next t := run_succ_of core h

theorem core_run_zero {s t : State} (h : core.run 0 s = .next t) : t = s := by
  cases h; rfl

/-- What every step keeps, every run keeps. -/
theorem run_keeps {P : State → Prop} (hstep : ∀ s t, P s → step s = .next t → P t) {n : Nat} {s t : State} (hs : P s)
    (h : core.run n s = .next t) : P t := by
  induction n generalizing s with
  | zero => exact core_run_zero h ▸ hs
  | succ n ih =>
    obtain ⟨u, hu, hr⟩ := core_run_succ h
    exact ih (hstep s u hs hu) hr

end Sys2Proof.Machine
end

