-- ==== Sys2Proof/Machine/Assembler.lean ====
section
/-! DEFINITION. The assembler syntax of 30_encoding R95, as tokens: the mnemonic, the numeric operands in their order, and
the format word of ENCID. The refused operations have no line in R95. -/

namespace Sys2Proof.Machine

/-- One line of a test program (R95). -/
structure AsmLine where
  mnemonic : String
  operands : List Nat
  format : Option String
  deriving DecidableEq, Repr

/-- A line whose operands are all numbers. -/
def plainLine (m : String) (ops : List Nat) : Option AsmLine := some ⟨m, ops, none⟩

/-- The line of an operation (R95, R96). -/
def asmLine : Instr → Option AsmLine
  | .reset => plainLine "RESET" []
  | .rdstat => plainLine "RDSTAT" []
  | .read1 addr => plainLine "READ1" [addr.toNat]
  | .read addr n => if n < 0 then none else plainLine "READ" [addr.toNat, n.toNat]
  | .write1 addr v => plainLine "WRITE1" [addr.toNat, v.toNat]
  | .write addr values => plainLine "WRITE" (addr.toNat :: values.map BitVec.toNat)
  | .bitmod addr mask data => plainLine "BITMOD" [addr.toNat, mask.toNat, data.toNat]
  | .decid hdr => plainLine "DECID" (hdr.map BitVec.toNat)
  | .declen b => plainLine "DECLEN" [b.toNat]
  | .chklen len => plainLine "CHKLEN" [len.toNat]
  | .applyrtr idw ctrl => plainLine "APPLYRTR" [idw.toNat, ctrl.toNat]
  | .encidStd id => some ⟨"ENCID", [id], some "STD"⟩
  | .encidExt id => some ⟨"ENCID", [id], some "EXT"⟩
  | .rts _ => none
  | .loadtx _ => none
  | .readrx _ => none
  | .reservedD => none
  | .reservedEF _ => none

end Sys2Proof.Machine
end

