-- ==== Sys2Proof/Tests/Slice0.lean ====
section
/-! SUPPORT. Tests: the decoder on words written out from 30_encoding R80-R89 and spec/opcode_table.json, the checks of
WellFormed, one step of each operation on the vectors of 95_test_vectors, and a witness for every statement that has
hypotheses. Where no source is named, the expected value is worked out by hand from the rule that the name or the
comment gives. -/

namespace Sys2Proof.Tests

open Sys2Proof.Machine

/-! ### Helpers -/

/-- Reset, with these answers coming. -/
def withReplies (rs : List Reply) : State := { State.reset with replies := rs }

/-- Reset, with these requests waiting. -/
def withRequests (ps : List (List Byte)) : State := { State.reset with requests := ps }

/-- Reset, with these chip registers and these answers coming. -/
def withChip (m : Memory) (rs : List Reply) : State := { State.reset with chip := ⟨m, 0, 0⟩, replies := rs }

def resultOf : Host.Outcome State Fault Refusal → Option OpResult
  | .next t => t.result
  | _ => none

def logOf : Host.Outcome State Fault Refusal → Option (List Exchange)
  | .next t => some t.log
  | _ => none

def marksOf : Host.Outcome State Fault Refusal → Option (Option FaultMark × Option RefusalReason)
  | .next t => some (t.fault, t.refused)
  | _ => none

def registerOf (a : Nat) : Host.Outcome State Fault Refusal → Option Byte
  | .next t => some (t.chip.register a)
  | _ => none

/-- One step from reset with one request waiting. -/
def stepOn (r : List Byte) (rs : List Reply) : Host.Outcome State Fault Refusal :=
  step { State.reset with requests := [r], replies := rs }

/-! ### Decoding: at least one word for every constructor -/

theorem test_decode_reset : (decode [0xC0]).toOption = some .reset := by decide
theorem test_decode_rdstat : (decode [0xA0, 0x00]).toOption = some .rdstat := by decide
theorem test_decode_read1 : (decode [0x03, 0x0E, 0x00]).toOption = some (.read1 0x0E) := by decide
theorem test_decode_read : (decode [0x03, 0x61, 0, 0, 0, 0, 0]).toOption = some (.read 0x61 5) := by decide
theorem test_decode_read_none : (decode [0x03, 0x76]).toOption = some (.read 0x76 0) := by decide
theorem test_decode_write1 : (decode [0x02, 0x2A, 0x00]).toOption = some (.write1 0x2A 0x00) := by decide
theorem test_decode_write :
    (decode [0x02, 0x08, 0x91, 0xA8, 0x56, 0x78]).toOption = some (.write 0x08 [0x91, 0xA8, 0x56, 0x78]) := by decide
theorem test_decode_write_none : (decode [0x02, 0x00]).toOption = some (.write 0x00 []) := by decide
theorem test_decode_bitmod : (decode [0x05, 0x0F, 0xE0, 0x80]).toOption = some (.bitmod 0x0F 0xE0 0x80) := by decide
/-- R86: RTS is 0x81, 0x82, 0x84 for buffers 0, 1, 2. -/
theorem test_decode_rts : (decode [0x81]).toOption = some (.rts 0b001) ∧ (decode [0x82]).toOption = some (.rts 0b010) ∧
    (decode [0x84]).toOption = some (.rts 0b100) := by decide
theorem test_decode_loadtx : (decode [0x40]).toOption = some (.loadtx 0b000) ∧
    (decode [0x45]).toOption = some (.loadtx 0b101) := by decide
theorem test_decode_readrx : (decode [0x92]).toOption = some (.readrx 0b01) ∧
    (decode [0x94]).toOption = some (.readrx 0b10) := by decide
theorem test_decode_decid : (decode [0x08, 0x20, 0x40, 0x00, 0x00, 0x02]).toOption =
    some (.decid [0x20, 0x40, 0x00, 0x00, 0x02]) := by decide
theorem test_decode_declen : (decode [0x09, 0x4F]).toOption = some (.declen 0x4F) := by decide
theorem test_decode_chklen : (decode [0x0A, 0x09]).toOption = some (.chklen 0x09) := by decide
theorem test_decode_applyrtr : (decode [0x0B, 0x92, 0x34, 0x56, 0x78, 0x08]).toOption =
    some (.applyrtr 0x92345678 0x08) := by decide
theorem test_decode_encid_std : (decode [0x0C, 0x00, 0x00, 0x00, 0x01, 0x02]).toOption = some (.encidStd 0x102) := by decide
theorem test_decode_encid_ext : (decode [0x0C, 0x01, 0x12, 0x34, 0x56, 0x78]).toOption =
    some (.encidExt 0x12345678) := by decide
theorem test_decode_reserved : (decode [0x0D]).toOption = some .reservedD ∧
    (decode [0x0E]).toOption = some (.reservedEF false) ∧ (decode [0x0F]).toOption = some (.reservedEF true) := by decide

/-- Rejected by name: RX STATUS (R88), a LOADTX operand past 0b101 (R86), a READRX byte with bit 0 set (R86), no bytes. -/
theorem test_decode_rejects_unknown : decode [0xB0] = .error (.unknownFirstByte 0xB0) ∧
    decode [0x46] = .error (.unknownFirstByte 0x46) ∧ decode [0x91] = .error (.unknownFirstByte 0x91) ∧
    decode [] = .error .empty := ⟨rfl, rfl, rfl, rfl⟩
/-- Rejected by name: a byte too many (R87), a filler byte that is not FILL (R82, R83), a byte missing (R85). -/
theorem test_decode_rejects_layout : decode [0xC0, 0x00] = .error (.badLayout 0xC0) ∧
    decode [0xA0, 0x01] = .error (.badLayout 0xA0) ∧ decode [0x03, 0x0E, 0x00, 0x01] = .error (.badLayout 0x03) ∧
    decode [0x05, 0x0F, 0xE0] = .error (.badLayout 0x05) ∧ decode [0x0C, 0x02, 0, 0, 0, 0] = .error (.badLayout 0x0C) :=
  ⟨rfl, rfl, rfl, rfl, rfl⟩

/-! ### WellFormed -/

theorem test_wf_refuses_negative_count : (Instr.read 0x00 (-1)).wellFormed = false := by decide
theorem test_wf_refuses_loadtx_operand : (Instr.loadtx 0b110).wellFormed = false := by decide
theorem test_wf_refuses_wide_std : (Instr.encidStd (2 ^ 32)).wellFormed = false := by decide
theorem test_wf_refuses_wide_ext : (Instr.encidExt (2 ^ 32)).wellFormed = false := by decide

/-! ### Words as the table numbers them -/

theorem test_table_word_bitmod : decodeTableWord 8 0x05 = some (.bitmod 0 0 0) := by decide
theorem test_table_word_decid : decodeTableWord 8 0x08 = some (.decid [0, 0, 0, 0, 0]) := by decide
/-- A READ word of three bytes: 0x03, the address 0x0E, one filler byte. -/
theorem test_table_word_read1 : decodeTableWord 24 0x000E03 = some (.read1 0x0E) := by decide
theorem test_fetch_word : resultOf (step (State.reset.withFetchWord 8 0x81)) = some (.refusal .commandNotInScope) := by decide

/-! ### One step of each operation (95_test_vectors section 2) -/

theorem test_reset_sends_one_byte : logOf (stepOn [0xC0] [.bytes [0x55]]) = some [⟨[0xC0], .bytes [0x55]⟩] := by decide
theorem test_rdstat_passes_all_bits :
    resultOf (stepOn [0xA0, 0x00] [.bytes [0xA0, 0xFF]]) = some (.ok (.byte 0xFF)) := by decide
theorem test_read1_third_byte :
    resultOf (stepOn [0x03, 0x0E, 0x00] [.bytes [0x11, 0x22, 0x80]]) = some (.ok (.byte 0x80)) := by decide
/-- A two-byte reply to a three-byte request (R112, D15; the log entry as R23 and R231 say, log entry 3). -/
theorem test_read1_wrong_length :
    marksOf (stepOn [0x03, 0x0E, 0x00] [.bytes [1, 2]]) = some (some .transportFailure, none) ∧
    logOf (stepOn [0x03, 0x0E, 0x00] [.bytes [1, 2]]) = some [⟨[0x03, 0x0E, 0x00], .failed⟩] := by decide
theorem test_read_five :
    resultOf (stepOn [0x03, 0x61, 0, 0, 0, 0, 0] [.bytes [9, 9, 0x20, 0x40, 0x00, 0x00, 0x02]]) =
      some (.ok (.bytes [0x20, 0x40, 0x00, 0x00, 0x02])) := by decide
theorem test_read_fifteen_refused :
    resultOf (exec (.read 0x00 15) State.reset) = some (.refusal .burstTooLong) ∧
    logOf (exec (.read 0x00 15) State.reset) = some [] := by decide
theorem test_write1_sends_value :
    logOf (stepOn [0x02, 0x2A, 0x00] [.bytes [7, 7, 7]]) = some [⟨[0x02, 0x2A, 0x00], .bytes [7, 7, 7]⟩] := by decide
theorem test_write_order :
    registerOf 0x0A (exec (.write 0x08 [0x91, 0xA8, 0x56, 0x78]) (withReplies [.bytes [0, 0, 0, 0, 0, 0]])) =
      some 0x56 := by decide
theorem test_write_empty_refused : resultOf (exec (.write 0x00 []) State.reset) = some (.refusal .emptyWrite) := by decide
/-- R[0x0F] = 0x07 before BITMOD 0x0F, 0xE0, 0x80 gives 0x87. -/
theorem test_bitmod_keeps_unmasked :
    registerOf 0x0F (exec (.bitmod 0x0F 0xE0 0x80) (withChip [(0x0F, 0x07)] [.bytes [0, 0, 0, 0]])) = some 0x87 := by decide
/-- R[0x2C] = 0x03 before BITMOD 0x2C, 0x01, 0x00 gives 0x02. -/
theorem test_bitmod_clears_one_flag :
    registerOf 0x2C (exec (.bitmod 0x2C 0x01 0x00) (withChip [(0x2C, 0x03)] [.bytes [0, 0, 0, 0]])) = some 0x02 := by decide
theorem test_rts_refused : marksOf (stepOn [0x81] []) = some (none, some .commandNotInScope) := by decide
theorem test_loadtx_refused : logOf (stepOn [0x40] []) = some [] := by decide
theorem test_readrx_refused : resultOf (stepOn [0x96] []) = some (.refusal .commandNotInScope) := by decide
theorem test_reserved_d_refused : marksOf (stepOn [0x0D] []) = some (none, some .commandNotInScope) := by decide
theorem test_reserved_ef_refused : marksOf (stepOn [0x0F] []) = some (none, some .commandNotInScope) := by decide

theorem test_decid_extended :
    resultOf (stepOn [0x08, 0x91, 0xA8, 0x56, 0x78, 0x40] []) = some (.ok (.ident 0x12345678 true 0x92345678)) := by decide
theorem test_decid_unread_bits :
    resultOf (stepOn [0x08, 0xFF, 0xF7, 0xFF, 0xFF, 0xFF] []) = some (.ok (.ident 0x7FF false 0x7FF)) := by decide
theorem test_declen_drops_high_nibble : resultOf (stepOn [0x09, 0x4F] []) = some (.ok (.len 15)) := by decide
theorem test_chklen_eight : resultOf (stepOn [0x0A, 0x08] []) = some (.ok (.len 8)) := by decide
theorem test_chklen_nine : resultOf (stepOn [0x0A, 0x09] []) = some (.error .malformed) ∧
    marksOf (stepOn [0x0A, 0x09] []) = some (none, none) := by decide
theorem test_applyrtr_sets :
    resultOf (stepOn [0x0B, 0x92, 0x34, 0x56, 0x78, 0x0F] []) = some (.ok (.word 0xD2345678)) := by decide
theorem test_applyrtr_only_bit_three :
    resultOf (stepOn [0x0B, 0x00, 0x00, 0x01, 0x02, 0xF7] []) = some (.ok (.word 0x102)) := by decide
theorem test_encid_std : resultOf (exec (.encidStd 0x555) State.reset) = some (.ok (.bytes [0xAA, 0xA0, 0, 0])) := by decide
theorem test_encid_std_flagged : resultOf (exec (.encidStd 0x80000102) State.reset) = some (.refusal .idOutOfRange) := by decide
theorem test_encid_ext :
    resultOf (exec (.encidExt 0x0AAAAAAA) State.reset) = some (.ok (.bytes [0x55, 0x4A, 0xAA, 0xAA])) := by decide
theorem test_encid_ext_wide : resultOf (exec (.encidExt 0x20000000) State.reset) = some (.refusal .idOutOfRange) := by decide

/-- R96: SETMODE 4 is BITMOD 0x0F, 0xE0, 0x80 (program P2). -/
theorem test_setmode_words : encode (setMode .configuration) = [0x05, 0x0F, 0xE0, 0x80] := by decide
/-- R95: the line of an ENCID. -/
theorem test_asm_line : asmLine (.encidExt 0x12345678) = some ⟨"ENCID", [0x12345678], some "EXT"⟩ := by decide

/-- Program P1 (source example S6): the frame received from buffer 0. -/
theorem test_receive_p1 : (receive false (withReplies [.bytes [0, 0x01], .bytes [0, 0, 0x20, 0x40, 0x00, 0x00, 0x02],
    .bytes [0, 0, 0x00], .bytes [0, 0, 0xAA, 0xBB], .bytes [0, 0, 0, 0]])).out =
      .value ⟨0x102, 2, [0xAA, 0xBB]⟩ := by decide

/-- Boot with one setter and one poll that finds nothing (R263): the ends of the polls. -/
theorem test_boot_polls : (boot [((16000000, 1000000), ⟨0x00, 0xD0, 0x82⟩)] 0 0 1000000 16000000
    [⟨false, 2, true, 0x12345678, none⟩] false 1 (withReplies [.bytes [0], .bytes [0, 0, 0, 0], .bytes [0, 0, 0x80],
      .bytes [0, 0, 0], .bytes [0, 0, 0], .bytes [0, 0, 0], .bytes [0, 0, 0, 0, 0, 0], .bytes [0, 0, 0, 0], .bytes [0, 0, 0],
      .bytes [0, 0xFC]])).out = .value [.noMessage] := by decide

/-- R88: the reference chip answers no first byte outside the five commands (log entry 22). -/
theorem test_ref_chip_unknown_byte : refChipReply State.reset.chip [0xB0, 0x00] [0, 0] = none ∧
    refChipReply State.reset.chip [0x09, 0x4F] [0, 0] = none := by decide

/-! ### Witnesses: the hypotheses of the statements can be met -/

/-- Of `Obligations.DecodingTheEncodedOperationGivesItBack`, at the edges of what a request carries. -/
theorem witness_well_formed : (Instr.read 0xFF 0).wellFormed = true ∧ (Instr.loadtx 5).wellFormed = true ∧
    (Instr.encidExt (2 ^ 32 - 1)).wellFormed = true := by decide
/-- Of `Obligations.EncodingTheDecodedBytesGivesThemBack`. -/
theorem witness_decodes : decode [0x03, 0x0E, 0x00] = .ok (.read1 0x0E) := rfl
/-- Of `Obligations.DifferentCommandsSendDifferentBytes`, two spellings of one request. -/
theorem witness_same_words : sends (.read1 0x0E) = true ∧ sends (.read 0x0E 1) = true ∧
    encode (.read1 0x0E) = encode (.read 0x0E 1) := by decide
/-- Of `Obligations.OnlyInScopeOpcodesAreSent`, `EveryCommandPerformsExactlyOneExchange` (an operation that sends). -/
theorem witness_sends : sends .rdstat = true ∧ ∃ t e, exec .rdstat State.reset = .next t ∧ t.log = State.reset.log ++ [e] := by
  refine ⟨rfl, ?_⟩
  cases h : acceptReply fReadStatus (oracleReply fReadStatus State.reset) with
  | failed => exact ⟨_, ⟨fReadStatus, .failed⟩, rfl, by rw [h]; rfl⟩
  | bytes rx => exact ⟨_, ⟨fReadStatus, .bytes rx⟩, rfl, by rw [h]; rfl⟩
/-- Of `EveryCommandPerformsExactlyOneExchange` (an operation that does not send), and of
`OtherOperationsLeaveTheChipRegisters`. -/
theorem witness_silent : sends (.declen 0x4F) = false ∧ stores (.declen 0x4F) = false ∧
    ∃ t, exec (.declen 0x4F) State.reset = .next t ∧ t.result ≠ some (.error .transportFailure) :=
  ⟨rfl, rfl, _, rfl, by decide⟩
/-- Of `Obligations.StepPerformsTheDecodedRequest`. -/
theorem witness_step : (withRequests [[0xC0], [0x0D]]).requests = [0xC0] :: [[0x0D]] ∧ decode [0xC0] = .ok .reset :=
  ⟨rfl, rfl⟩
/-- Of both clauses of `Obligations.StepRefusesUndecodableBytesAndWaitsWithoutRequest`. -/
theorem witness_step_stops : State.reset.requests = [] ∧ (withRequests [[0xB0]]).requests = [0xB0] :: [] ∧
    decode [0xB0] = .error (.unknownFirstByte 0xB0) := ⟨rfl, rfl, rfl⟩

/-- The completed clause of `ResetSends...`, `ReadStatusReturns...`, `ReadOneReturns...`, `WriteOneSends...` and
`BitModifyChanges...`: a reply of the right length stands in State. -/
theorem witness_replies : (withReplies [.bytes [1]]).replies = .bytes [1] :: [] ∧
    (withReplies [.bytes [1, 2]]).replies = .bytes [1, 2] :: [] ∧
    (withReplies [.bytes [1, 2, 3]]).replies = .bytes [1, 2, 3] :: [] ∧ ([1, 2, 3] : List Byte).length = 3 ∧
    (withReplies [.bytes [1, 2, 3, 4]]).replies = .bytes [1, 2, 3, 4] :: [] ∧ ([1, 2, 3, 4] : List Byte).length = 4 := by
  decide
/-- The failing clause of the same statements, both its cases, and of `FailedExchangeLeaves...`. -/
theorem witness_fails : sends .reset = true ∧ failsOn (encode .reset) .failed ∧ failsOn (encode .reset) (.bytes []) ∧
    (withReplies [.failed]).replies = .failed :: [] ∧ failsOn (encode (.read1 0x0E)) (.bytes [1, 2]) :=
  ⟨rfl, .inl rfl, .inr ⟨_, rfl, by decide⟩, rfl, .inr ⟨_, rfl, by decide⟩⟩
/-- Of `Obligations.ReadReturnsTheReplyBytesFromTwoOn`: counts just outside, and the least and largest inside. -/
theorem witness_read : ((-1 : Int) < 0 ∨ (Config.maxData : Int) < -1) ∧ ((15 : Int) < 0 ∨ (Config.maxData : Int) < 15) ∧
    ((0 : Int) = (0 : Nat) ∧ (0 : Nat) ≤ Config.maxData ∧ (withReplies [.bytes [7, 7]]).replies = .bytes [7, 7] :: [] ∧
      ([7, 7] : List Byte).length = 2 + 0) ∧
    (14 : Int) = (14 : Nat) ∧ (14 : Nat) ≤ Config.maxData ∧
    (withReplies [.bytes (List.replicate 16 0)]).replies = .bytes (List.replicate 16 0) :: [] ∧
    (List.replicate 16 (0 : Byte)).length = 2 + 14 := by decide
/-- Of `Obligations.WriteSendsTheValuesInOrder`: none, one too many, one, and the most. -/
theorem witness_write : Config.maxData < (List.replicate 15 (0 : Byte)).length ∧
    (([5] : List Byte) ≠ [] ∧ ([5] : List Byte).length ≤ Config.maxData ∧
      (withReplies [.bytes [7, 7, 7]]).replies = .bytes [7, 7, 7] :: [] ∧
      ([7, 7, 7] : List Byte).length = 2 + ([5] : List Byte).length) ∧
    (List.replicate 14 (0 : Byte)) ≠ [] ∧ (List.replicate 14 (0 : Byte)).length ≤ Config.maxData ∧
    (withReplies [.bytes (List.replicate 16 0)]).replies = .bytes (List.replicate 16 0) :: [] ∧
    (List.replicate 16 (0 : Byte)).length = 2 + (List.replicate 14 (0 : Byte)).length := by decide
/-- Of the bit and the frame clause of `Obligations.BitModifyChangesOnlyTheMaskedBits`. -/
theorem witness_bitmod : (7 : Nat) < 8 ∧ (0xE0 : Byte).getLsbD 7 = true ∧ (0xE0 : Byte).getLsbD 0 = false ∧
    (0x10 : Nat) ≠ (0x0F : Byte).toNat := by decide
/-- Of `Obligations.AFreeReplyIsTreatedAsAnyReply`. -/
theorem witness_free_reply : sends .rdstat = true ∧ State.reset.replies = [] ∧
    ∃ r, oracleReply (encode .rdstat) State.reset = r := ⟨rfl, rfl, _, rfl⟩
/-- Of `Obligations.UnreadReplyBytesDoNotChangeTheOutcome`: two replies to a READ1 that differ in the command phase. -/
theorem witness_unread : ([1, 2, 0x80] : List Byte).length = ([3, 4, 0x80] : List Byte).length ∧
    ([1, 2, 0x80] : List Byte).drop 2 = ([3, 4, 0x80] : List Byte).drop 2 ∧
    (∃ t, exec (.read1 0x0E) { State.reset with replies := [.bytes [1, 2, 0x80]] } = .next t) ∧
    ∃ t, exec (.read1 0x0E) { State.reset with replies := [.bytes [3, 4, 0x80]] } = .next t :=
  ⟨rfl, rfl, ⟨_, rfl⟩, ⟨_, rfl⟩⟩
/-- The READ-STATUS clause of the same statement. -/
theorem witness_unread_status : ([1, 0x03] : List Byte)[1]? = ([2, 0x03] : List Byte)[1]? := by decide

/-- Of both formats in `DecidGives...`, `ReencodingADecodedHeader...`, `IdentifierWordHolds...`. -/
theorem witness_decid : (0xA8 : Byte).getLsbD Config.ideBit = true ∧ (0xF7 : Byte).getLsbD Config.ideBit = false ∧
    (∃ i w, exec (.decid [0x91, 0xA8, 0x56, 0x78, 0x40]) State.reset = .next (afterValue State.reset (.ident i true w))) ∧
    ∃ i w, exec (.decid [0xFF, 0xF7, 0xFF, 0xFF, 0xFF]) State.reset = .next (afterValue State.reset (.ident i false w)) :=
  ⟨by decide, by decide, ⟨0x12345678, 0x92345678, rfl⟩, ⟨0x7FF, 0x7FF, rfl⟩⟩
/-- Of `Obligations.DecidReadsOnlyTheNamedBits`: a standard and an extended pair that differ in unread bits. -/
theorem witness_decid_unread :
    ((0xE0 : Byte) &&& 0xE8 = 0xF7 &&& 0xE8 ∧
      ((0xE0 : Byte).getLsbD Config.ideBit = true →
        (0xE0 : Byte) &&& 0x03 = 0xF7 &&& 0x03 ∧ (0x00 : Byte) = 0xFF ∧ (0x00 : Byte) = 0xFF) ∧
      (∃ t, exec (.decid [0xFF, 0xE0, 0x00, 0x00, 0x00]) State.reset = .next t) ∧
      ∃ t, exec (.decid [0xFF, 0xF7, 0xFF, 0xFF, 0xFF]) State.reset = .next t) ∧
    (0xA8 : Byte) &&& 0xE8 = 0xBC &&& 0xE8 ∧ (0xA8 : Byte).getLsbD Config.ideBit = true ∧
    (0xA8 : Byte) &&& 0x03 = 0xBC &&& 0x03 ∧
    (∃ t, exec (.decid [0x91, 0xA8, 0x56, 0x78, 0x00]) State.reset = .next t) ∧
    ∃ t, exec (.decid [0x91, 0xBC, 0x56, 0x78, 0xFF]) State.reset = .next t :=
  ⟨⟨by decide, by decide, ⟨_, rfl⟩, ⟨_, rfl⟩⟩, by decide, by decide, by decide, ⟨_, rfl⟩, ⟨_, rfl⟩⟩
/-- Of both clauses of `Obligations.CodecOperandsOutsideTheirFieldAreRefused`, just outside. -/
theorem witness_codec_operands : ([1, 2, 3, 4] : List Byte).length ≠ 5 ∧ ([1, 2, 3, 4, 5, 6] : List Byte).length ≠ 5 ∧
    15 < (0x10 : Byte).toNat := by decide
/-- Of the two clauses of `Obligations.ChklenAcceptsLengthsUpToEight`, at their ends. -/
theorem witness_chklen : (0x00 : Byte).toNat ≤ 8 ∧ (0x08 : Byte).toNat ≤ 8 ∧ 9 ≤ (0x09 : Byte).toNat ∧
    (0x09 : Byte).toNat ≤ 15 ∧ 9 ≤ (0x0F : Byte).toNat ∧ (0x0F : Byte).toNat ≤ 15 := by decide
/-- Of `Obligations.ApplyRtrSetsOnlyTheRemoteRequestFlag`: the bits beside the flag. -/
theorem witness_applyrtr : 31 ≠ Config.rtrFlagBit ∧ 29 ≠ Config.rtrFlagBit := by decide
/-- Of the ENCID statements and the round trip, at the ends of the ranges, and a word with each flag. -/
theorem witness_encid : 0x7FF < 2 ^ 11 ∧ 2 ^ 11 ≤ 0x800 ∧ 0x1FFFFFFF < 2 ^ 29 ∧ 2 ^ 29 ≤ 0x20000000 ∧
    (0x80000000 : IdWord).getLsbD Config.extFlagBit = true ∧ (0x40000000 : IdWord).getLsbD Config.rtrFlagBit = true := by
  decide
/-- Of `Obligations.CodecOperationsArePure`, one operation that is refused and one that is not. -/
theorem witness_codec : isCodec (.decid []) = true ∧ isCodec (.chklen 9) = true ∧ isCodec (.encidExt 0) = true := by decide

/-- Of both clauses of `Obligations.RefusalsComeBeforeAnyExchange`. -/
theorem witness_refusal : refusalOf (.write 0x00 []) = some .emptyWrite ∧ refusalOf (.write 0x00 [1]) = none := by decide
/-- Of both clauses of `Obligations.MarksAreNeverCleared`. -/
theorem witness_marks : ∃ s t : State, step s = .next t ∧ s.fault ≠ none ∧ s.refused ≠ none :=
  ⟨{ withRequests [[0x0D]] with fault := some .transportFailure, refused := some .emptyWrite }, _, rfl,
    by decide, by decide⟩
/-- Of `RunsOnlyAppendToTheLog` and `CleanRunsHaveNoFailedExchange`: a clean run of one step with one exchange. -/
theorem witness_run : ∃ s t : State, s.inv = true ∧ core.run 1 s = .next t ∧ t.clean = true ∧
    t.log = [⟨[0xA0, 0x00], .bytes [0, 1]⟩] :=
  ⟨{ withReplies [.bytes [0, 1]] with requests := [[0xA0, 0x00]] }, _, by decide, rfl, by decide, by decide⟩
/-- Of `Obligations.OutcomesReadNeitherTheRecordNorTheChip`: two states that differ in the refusal mark and the chip. -/
theorem witness_two_states : ∃ s s' t t' : State, s ≠ s' ∧ s.replies = s'.replies ∧ s.draws = s'.draws ∧
    exec .rdstat s = .next t ∧ exec .rdstat s' = .next t' :=
  ⟨withReplies [.bytes [0, 1]], { withChip [(0x0E, 0x80)] [.bytes [0, 1]] with refused := some .emptyWrite }, _, _,
    by decide, rfl, rfl, rfl, rfl⟩
/-- Of `Obligations.EveryStepKeepsTheRecordSound`: a sound record with a failed exchange in it. -/
theorem witness_sound : ∃ s t : State, s.inv = true ∧ step s = .next t ∧ s.log ≠ [] :=
  ⟨{ withRequests [[0x0D]] with log := [⟨[0xC0], .failed⟩], fault := some .transportFailure }, _, by decide, rfl, by decide⟩

/-- Of `Obligations.WriteStoresToTheRegistersItReaches`, both operations, and a burst whose first byte reaches 0xFF. -/
theorem witness_write_registers : ([1, 2] : List Byte) ≠ [] ∧ ([1, 2] : List Byte).length ≤ Config.maxData ∧
    (withReplies [.bytes [0, 0, 0, 0]]).replies = .bytes [0, 0, 0, 0] :: [] ∧
    (∃ t, exec (.write 0xFE [1, 2]) (withReplies [.bytes [0, 0, 0, 0]]) = .next t) ∧
    (∃ t, exec (.write1 0xFF 1) (withReplies [.bytes [0, 0, 0]]) = .next t) ∧
    registerAt ((0xFE : Byte).toNat + 1) = some 0xFF :=
  ⟨by decide, by decide, rfl, ⟨_, rfl⟩, ⟨_, rfl⟩, by decide⟩
/-- Of both clauses of `Obligations.ReferenceChipReadsBackWhatWasWritten`: the burst ending at 0xFF, and a READ of none. -/
theorem witness_read_back : ((0 : Nat) ≤ Config.maxData ∧ (0xFF : Byte).toNat + 0 ≤ 0x100 ∧
      ([0, 0] : List Byte).length = 2 + 0) ∧ ([1, 2] : List Byte) ≠ [] ∧ ([1, 2] : List Byte).length ≤ Config.maxData ∧
    (0xFE : Byte).toNat + ([1, 2] : List Byte).length ≤ 0x100 ∧
    (withReplies [.bytes [0, 0, 0, 0]]).replies = .bytes [0, 0, 0, 0] :: [] ∧
    ([0, 0, 0, 0] : List Byte).length = 2 + ([1, 2] : List Byte).length ∧
    ∃ t, exec (.write 0xFE [1, 2]) (withReplies [.bytes [0, 0, 0, 0]]) = .next t :=
  ⟨by decide, by decide, by decide, by decide, rfl, rfl, _, rfl⟩
/-- Of both clauses of `Obligations.ReferenceChipRefusesBurstsPastTheEnd`, one register past the end. -/
theorem witness_past_end : 3 ≤ Config.maxData ∧ 0x100 < (0xFE : Byte).toNat + 3 ∧
    ([1, 2] : List Byte).length ≤ Config.maxData ∧ 0x100 < (0xFF : Byte).toNat + ([1, 2] : List Byte).length := by decide

/-- Of `ReceiveWithoutFlagEndsAfterOneExchange`: a status with every transmit bit set (program P6, run B). -/
theorem witness_no_message : (withReplies [.bytes [0, 0xFC]]).replies = .bytes [0, 0xFC] :: [] ∧
    (0xFC : Byte).getLsbD 0 = false ∧ (0xFC : Byte).getLsbD 1 = false := by decide
/-- Of `ReceiveOfAMalformedLengthSendsTwoExchanges`, for each buffer, at the lengths 9 and 15. -/
theorem witness_malformed :
    ((withReplies [.bytes [0, 0x03], .bytes [0, 0, 0x20, 0x40, 0, 0, 0x09]]).replies =
        .bytes [0, 0x03] :: .bytes [0, 0, 0x20, 0x40, 0, 0, 0x09] :: [] ∧
      (0x03 : Byte).getLsbD 0 = !false ∧ 8 < ((0x09 : Byte) &&& 0x0F).toNat) ∧
    (withReplies [.bytes [0, 0x02], .bytes [0, 0, 0x20, 0x40, 0, 0, 0x4F]]).replies =
      .bytes [0, 0x02] :: .bytes [0, 0, 0x20, 0x40, 0, 0, 0x4F] :: [] ∧
    (0x02 : Byte).getLsbD 0 = !true ∧ (0x02 : Byte).getLsbD 1 = true ∧ 8 < ((0x4F : Byte) &&& 0x0F).toNat := by decide
/-- Of `ReceiveDeliversTheFrame`: length 0 from buffer 1 with the payload READ issued (program P5) and length 8 from
buffer 0 in the five-exchange clause. -/
theorem witness_receive :
    ((withReplies [.bytes [0, 0x02], .bytes [0, 0, 0x91, 0xA8, 0x56, 0x78, 0x40], .bytes [0, 0, 0x08], .bytes [0, 0],
        .bytes [0, 0, 0, 0]]).replies = .bytes [0, 0x02] :: .bytes [0, 0, 0x91, 0xA8, 0x56, 0x78, 0x40] ::
          .bytes [0, 0, 0x08] :: .bytes (0 :: 0 :: []) :: .bytes [0, 0, 0, 0] :: [] ∧
      (0x02 : Byte).getLsbD 0 = !true ∧ (0x02 : Byte).getLsbD 1 = true ∧ ((0x40 : Byte) &&& 0x0F).toNat ≤ 8 ∧
      ([] : List Byte).length = ((0x40 : Byte) &&& 0x0F).toNat ∧ ([0, 0, 0, 0] : List Byte).length = 4 ∧
      (([] : List Byte) ≠ [] ∨ false = false)) ∧
    (withReplies [.bytes [0, 0x01], .bytes [0, 0, 0x20, 0x40, 0, 0, 0x08], .bytes [0, 0, 0x00],
        .bytes (0 :: 0 :: List.replicate 8 1), .bytes [0, 0, 0, 0]]).replies = .bytes [0, 0x01] ::
          .bytes [0, 0, 0x20, 0x40, 0, 0, 0x08] :: .bytes [0, 0, 0x00] :: .bytes (0 :: 0 :: List.replicate 8 1) ::
          .bytes [0, 0, 0, 0] :: [] ∧
    (0x01 : Byte).getLsbD 0 = !false ∧ ((0x08 : Byte) &&& 0x0F).toNat ≤ 8 ∧
    (List.replicate 8 (1 : Byte)).length = ((0x08 : Byte) &&& 0x0F).toNat ∧ (List.replicate 8 (1 : Byte)) ≠ [] := by decide
/-- Of its four-exchange clause (program P5 with `SKIP_EMPTY_READ`). -/
theorem witness_receive_skipping :
    (withReplies [.bytes [0, 0x02], .bytes [0, 0, 0x91, 0xA8, 0x56, 0x78, 0x40], .bytes [0, 0, 0x08],
      .bytes [0, 0, 0, 0]]).replies = .bytes [0, 0x02] :: .bytes [0, 0, 0x91, 0xA8, 0x56, 0x78, 0x40] ::
        .bytes [0, 0, 0x08] :: .bytes [0, 0, 0, 0] :: [] ∧ ((0x40 : Byte) &&& 0x0F).toNat = 0 := by decide
/-- Of `ReceiveTakesBufferZeroFirst`, both flags set (program P6, run C). -/
theorem witness_both_flags : (withReplies [.bytes [0, 0x03]]).replies = .bytes [0, 0x03] :: [] ∧
    (0x03 : Byte).getLsbD 0 = true := by decide
/-- Of the written-out clause of `HostSequencesEndAtAFailedExchange` (program P8). -/
theorem witness_receive_fails :
    (withReplies [.bytes [0, 0x01], .failed]).replies = .bytes [0, 0x01] :: .failed :: [] ∧
    failsOn (Config.opcRead :: (bufferDesc false).sidh :: List.replicate 5 Config.fill) .failed := ⟨rfl, .inl rfl⟩
/-- Of the two mode-request statements: NORMAL asked for, with polls that show CONFIGURATION and SLEEP (program P7, with
differing polls), then one that shows NORMAL (program P2). -/
theorem witness_mode : ([0, 0, 0, 0] : List Byte).length = 4 ∧
    ((0x80 : Byte) &&& 0xE0 ≠ modeByte .normal ∧ (0x20 : Byte) &&& 0xE0 ≠ modeByte .normal ∧
      [((0 : Byte), (0 : Byte), (0x80 : Byte)), (1, 2, 0x20)].length = 1 + 1 ∧
      (withReplies [.bytes [0, 0, 0, 0], .bytes [0, 0, 0x80], .bytes [1, 2, 0x20]]).replies =
        .bytes [0, 0, 0, 0] :: ([((0 : Byte), (0 : Byte), (0x80 : Byte)), (1, 2, 0x20)].map pollReply ++ [])) ∧
    ¬ (0x07 : Byte) &&& 0xE0 ≠ modeByte .normal ∧ [((0 : Byte), (0 : Byte), (0x80 : Byte))].length ≤ 1 ∧
    (withReplies [.bytes [0, 0, 0, 0], .bytes [0, 0, 0x80], .bytes [0, 0, 0x07]]).replies =
      .bytes [0, 0, 0, 0] :: ([((0 : Byte), (0 : Byte), (0x80 : Byte))].map pollReply ++ pollReply (0, 0, 0x07) :: []) := by
  decide
/-- Of `UnsupportedBitrateWritesNoConfiguration` and of its clause after a confirmed request, and of
`AdmittedBitrateIsWrittenAfterTheModeRequest`. -/
theorem witness_bitrate : lookupBitrate [((16000000, 1000000), ⟨0x00, 0xD0, 0x82⟩)] 16000000 95000 = none ∧
    admittedTable [((16000000, 1000000), ⟨0x00, 0xD0, 0x82⟩)] = true ∧
    (requestConfiguration 0 (withReplies [.bytes [0, 0, 0, 0], .bytes [0, 0, 0x80], .bytes [1, 1, 1], .bytes [2, 2, 2],
      .bytes [3, 3, 3]])).out = .value () ∧
    (requestConfiguration 0 (withReplies [.bytes [0, 0, 0, 0], .bytes [0, 0, 0x80], .bytes [1, 1, 1], .bytes [2, 2, 2],
      .bytes [3, 3, 3]])).state.replies = .bytes [1, 1, 1] :: .bytes [2, 2, 2] :: .bytes [3, 3, 3] :: [] :=
  ⟨rfl, by decide, rfl, rfl⟩
/-- Of `SettersWriteTheEncodedIdentifier`: the last filter and mask, the ends of both ranges, and the switch with a confirmed
and an unconfirmed request; index 6 (filters) and 2 (masks) are off the lists. -/
theorem witness_filter :
    (if false then Config.maskBases else Config.filterBases)[5]? = some 0x18 ∧
    (if true then Config.maskBases else Config.filterBases)[1]? = some 0x24 ∧
    2 ^ 29 ≤ 0x20000000 ∧ 0x1FFFFFFF < 2 ^ 29 ∧ 2 ^ 11 ≤ 0x800 ∧ 0x7FF < 2 ^ 11 ∧
    (withReplies [.bytes [0, 0, 0, 0, 0, 0]]).replies = .bytes [0, 0, 0, 0, 0, 0] :: [] ∧
    ([0, 0, 0, 0, 0, 0] : List Byte).length = 6 ∧
    (requestConfiguration 0 (afterValue (withReplies [.bytes [0, 0, 0, 0], .bytes [0, 0, 0x80], .bytes [0, 0, 0, 0, 0, 0]]).countStep
      (.bytes (encodeStd 0x7FF)))).out = .value () ∧
    (requestConfiguration 0 (afterValue (withReplies [.bytes [0, 0, 0, 0], .bytes [0, 0, 0x80], .bytes [0, 0, 0, 0, 0, 0]]).countStep
      (.bytes (encodeStd 0x7FF)))).state.replies = .bytes [0, 0, 0, 0, 0, 0] :: [] ∧
    (requestConfiguration 0 (afterValue (withReplies [.failed]).countStep (.bytes (encodeStd 0x7FF)))).out ≠ .value () ∧
    Config.filterBases[6]? = none ∧ Config.maskBases[2]? = none := by decide
end Sys2Proof.Tests
end

/-! Proofs for 00_scope: what an operation may read of the state. The facts are said once for every operation, uniformly in
the state: an operation that sends has the same words and the same value function in every state, and its chip effect
depends on the draw counter alone (RESET); an operation that does not send is one refusal, or one outcome, in every state. -/

namespace Sys2Proof.Machine

/-! ### Operations, uniformly in the state -/

/-- `exec_of_sends` with one effect and one value function for every state. -/
theorem exec_of_sends_uniform {i : Instr} (h : sends i = true) :
    ∃ (effect : Nat → Chip → Chip) (value : List Byte → Value),
      ∀ s : State, exec i s = command (encode i) (effect s.draws) value s := by
  cases i with
  | reset => exact ⟨fun draw _ => Chip.unknown draw, _, fun _ => rfl⟩
  | rdstat => exact ⟨fun _ => id, _, fun _ => rfl⟩
  | read1 addr => exact ⟨fun _ c => c.readPast addr 1, _, fun _ => rfl⟩
  | read addr n =>
    have hn : countOutOfRange n = false := by simpa [sends] using h
    refine ⟨fun _ c => c.readPast addr n.toNat, fun rx => .bytes (replySlice n.toNat rx), fun s => ?_⟩
    simp [exec, execRead, hn, encode]
  | write1 addr value => exact ⟨fun _ c => c.write addr [value], _, fun _ => rfl⟩
  | write addr values =>
    have hv : writeRefusal values = none := by simpa [sends] using h
    refine ⟨fun _ c => c.write addr values, fun _ => .unit, fun s => ?_⟩
    simp [exec, execWrite, hv, encode]
  | bitmod addr mask data => exact ⟨fun _ c => c.bitModify addr mask data, _, fun _ => rfl⟩
  | rts | loadtx | readrx | decid | declen | chklen | applyrtr | encidStd | encidExt | reservedD | reservedEF =>
    simp [sends] at h

/-- An operation with a refusal reason is refused with it in every state (R235, R236). -/
theorem exec_of_refusalOf {i : Instr} {r : RefusalReason} (h : refusalOf i = some r) (s : State) :
    exec i s = refuse r s := by
  cases i with
  | reset | rdstat | read1 | write1 | bitmod | declen | applyrtr => simp [refusalOf] at h
  | rts | loadtx | readrx | reservedD | reservedEF => cases h; rfl
  | read addr n =>
    obtain ⟨hn, rfl⟩ : countOutOfRange n = true ∧ .burstTooLong = r := by simpa [refusalOf] using h
    simp [exec, execRead, hn]
  | write addr values =>
    have hv : writeRefusal values = some r := h
    simp [exec, execWrite, hv]
  | decid hdr =>
    obtain ⟨hl, rfl⟩ : hdr.length ≠ 5 ∧ .headerLength = r := by simpa [refusalOf] using h
    match hdr, hl with
    | [_, _, _, _, _], hl => exact absurd rfl hl
    | [], _ | [_], _ | [_, _], _ | [_, _, _], _ | [_, _, _, _], _ | _ :: _ :: _ :: _ :: _ :: _ :: _, _ => rfl
  | chklen len =>
    obtain ⟨hl, rfl⟩ : 15 < len.toNat ∧ .operandRange = r := by simpa [refusalOf] using h
    simp [exec, execChklen, hl]
  | encidStd id =>
    obtain ⟨hid, rfl⟩ : 2 ^ 11 ≤ id ∧ .idOutOfRange = r := by simpa [refusalOf] using h
    simp only [exec, execEncidStd, if_pos hid]
  | encidExt id =>
    obtain ⟨hid, rfl⟩ : 2 ^ 29 ≤ id ∧ .idOutOfRange = r := by simpa [refusalOf] using h
    simp only [exec, execEncidExt, if_pos hid]

/-- An operation that neither sends nor is refused gives one outcome in every state and changes nothing else (R20). -/
theorem exec_of_silent_uniform {i : Instr} (hs : sends i = false) (hr : refusalOf i = none) :
    ∃ o : OpResult, ∀ s : State, exec i s = .next (s.answer o) := by
  cases i with
  | reset | rdstat | read1 | write1 | bitmod => simp [sends] at hs
  | rts | loadtx | readrx | reservedD | reservedEF => simp [refusalOf] at hr
  | read addr n => simp_all [sends, refusalOf]
  | write addr values => simp_all [sends, refusalOf]
  | declen | applyrtr => exact ⟨_, fun _ => rfl⟩
  | decid hdr =>
    have hl : hdr.length = 5 := by simpa [refusalOf] using hr
    match hdr, hl with
    | [h0, h1, h2, h3, h4], _ => exact ⟨_, fun _ => rfl⟩
  | chklen len =>
    have hl : ¬ 15 < len.toNat := by simpa [refusalOf] using hr
    by_cases hm : Config.maxLen < len.toNat
    · exact ⟨_, fun s => by simp only [exec, execChklen, if_neg hl, if_pos hm]; rfl⟩
    · exact ⟨_, fun s => by simp only [exec, execChklen, if_neg hl, if_neg hm]; rfl⟩
  | encidStd id =>
    have hid : ¬ 2 ^ 11 ≤ id := by simpa [refusalOf] using hr
    exact ⟨_, fun s => by simp only [exec, execEncidStd, if_neg hid]; rfl⟩
  | encidExt id =>
    have hid : ¬ 2 ^ 29 ≤ id := by simpa [refusalOf] using hr
    exact ⟨_, fun s => by simp only [exec, execEncidExt, if_neg hid]; rfl⟩

/-! ### What an exchange reads of the state -/

/-- The coming answer is a function of the answers in State and the draw counter (R7; log entry 2). -/
theorem oracleReply_congr {s s' : State} (hr : s.replies = s'.replies) (hd : s.draws = s'.draws) (tx : List Byte) :
    oracleReply tx s = oracleReply tx s' := by
  simp only [oracleReply, hr, hd]

/-- An exchange appends one entry: the bytes sent and the accepted reply (R112). -/
@[simp] theorem finishExchange_log (tx : List Byte) (effect : Chip → Chip) (value : List Byte → Value) (s : State)
    (r : Reply) : (finishExchange tx effect value s r).log = s.log ++ [⟨tx, r⟩] := by
  cases r <;> rfl

/-- The outcome of an exchange is a function of the accepted reply: neither the state nor the chip effect enters it. -/
theorem finishExchange_result_congr (tx : List Byte) (effect effect' : Chip → Chip) (value : List Byte → Value)
    (s s' : State) (r : Reply) :
    (finishExchange tx effect value s r).result = (finishExchange tx effect' value s' r).result := by
  cases r <;> rfl

/-- Using up the only answer leaves what using up a free answer leaves. -/
theorem consumeReply_of_replies_nil {s : State} (h : s.replies = []) (r : Reply) :
    { s with replies := [r] }.consumeReply = s.consumeReply := by
  simp [State.consumeReply, h]

/-- A command does with a free answer what it does with the same answer standing in State. -/
theorem command_of_free_reply {s : State} (h : s.replies = []) (tx : List Byte) (effect : Chip → Chip)
    (value : List Byte → Value) :
    command tx effect value s = command tx effect value { s with replies := [oracleReply tx s] } := by
  have hr : oracleReply tx { s with replies := [oracleReply tx s] } = oracleReply tx s := oracleReply_scripted rfl
  rw [command_next, command_next, hr]
  cases acceptReply tx (oracleReply tx s) <;> simp only [finishExchange, consumeReply_of_replies_nil h]

/-! ### The obligations -/

/-- Settles O16: an operation that sends is a command over its own words, and a command treats the two answers alike. -/
theorem aFreeReplyIsTreatedAsAnyReply : Obligations.AFreeReplyIsTreatedAsAnyReply := by
  unfold Obligations.AFreeReplyIsTreatedAsAnyReply
  rintro i s r hs hnil rfl
  obtain ⟨effect, value, hexec⟩ := exec_of_sends_uniform hs
  rw [hexec, hexec]
  exact ⟨command_of_free_reply hnil _ _ _, _, command_next _ _ _ _⟩

/-- Settles O39: an operation that sends reads of the state only its coming answer, and any other operation ends in one
refusal or one outcome whatever the state, with no exchange. -/
theorem outcomesReadNeitherTheRecordNorTheChip : Obligations.OutcomesReadNeitherTheRecordNorTheChip := by
  unfold Obligations.OutcomesReadNeitherTheRecordNorTheChip
  intro i s s' t t' hr hd ht ht'
  cases hs : sends i with
  | true =>
    obtain ⟨effect, value, hexec⟩ := exec_of_sends_uniform hs
    rw [hexec, command_next] at ht ht'
    rw [← oracleReply_congr hr hd] at ht'
    cases ht; cases ht'
    exact ⟨finishExchange_result_congr .., _, finishExchange_log .., finishExchange_log ..⟩
  | false =>
    cases hf : refusalOf i with
    | some r =>
      rw [exec_of_refusalOf hf, refuse_eq] at ht ht'
      cases ht; cases ht'
      exact ⟨rfl, [], by simp, by simp⟩
    | none =>
      obtain ⟨o, hexec⟩ := exec_of_silent_uniform hs hf
      rw [hexec] at ht ht'
      cases ht; cases ht'
      exact ⟨rfl, [], by simp, by simp⟩

end Sys2Proof.Machine

/-! Proofs for 10_state: the step, the record and the reference chip's registers. An operation in a state has four ends
(`OpEnd`): a completed exchange, a failed one, a refusal, or an outcome without exchange. Every statement about the record
is read off these ends. -/

namespace Sys2Proof.Machine

/-! ### The ends of an operation -/

/-- Which replies fail is which replies are not accepted (R112, R231). -/
theorem acceptReply_of_failsOn {tx : List Byte} {r : Reply} (h : failsOn tx r) : acceptReply tx r = .failed := by
  obtain rfl | ⟨rx, rfl, hl⟩ := h
  · exact acceptReply_failed tx
  · exact acceptReply_wrong hl

/-- A command whose coming answer fails leaves the failure written out in `afterFailure` (R231). -/
theorem command_fails {tx : List Byte} {s : State} (effect : Chip → Chip) (value : List Byte → Value)
    (h : acceptReply tx (oracleReply tx s) = .failed) :
    command tx effect value s = .next (afterFailure s tx s.replies.tail (Chip.unknown s.draws)) := by
  rw [command_next, h]; rfl

/-- A command whose coming answer is accepted leaves the exchange written out in `afterExchange` (R112). -/
theorem command_exchanges {tx rx : List Byte} {s : State} (effect : Chip → Chip) (value : List Byte → Value)
    (h : acceptReply tx (oracleReply tx s) = .bytes rx) :
    command tx effect value s = .next (afterExchange s tx rx s.replies.tail (effect s.chip) (value rx)) := by
  rw [command_next, h]; rfl

/-- An answer that leaves the refusal mark unset is no refusal. -/
theorem Quiet.ne_refusal {s : State} {o : OpResult} (hs : s.refused = none) (q : Quiet s (s.answer o)) (r : RefusalReason) :
    o ≠ .refusal r := by
  generalize ht : s.answer o = t at q
  cases q with
  | refusal r' => simpa [hs] using congrArg State.refused ht
  | outcome o' ho' _ =>
    obtain rfl : o = o' := by simpa using congrArg State.result ht
    exact ho' r

/-- `exec_of_silent_uniform`, and its outcome is no refusal. -/
theorem exec_of_silent_outcome {i : Instr} (hs : sends i = false) (hr : refusalOf i = none) :
    ∃ o : OpResult, (∀ r, o ≠ .refusal r) ∧ ∀ s : State, exec i s = .next (s.answer o) := by
  obtain ⟨o, ho⟩ := exec_of_silent_uniform hs hr
  obtain ⟨t, ht, q⟩ := exec_of_not_sends hs State.reset
  cases (ho State.reset).symm.trans ht
  exact ⟨o, q.ne_refusal rfl, ho⟩

/-- The codec operations perform no exchange (41_frame_codec, preamble). -/
theorem sends_of_isCodec {i : Instr} (h : isCodec i = true) : sends i = false := by
  cases i with
  | rts | loadtx | readrx | decid | declen | chklen | applyrtr | encidStd | encidExt | reservedD | reservedEF => rfl
  | reset | rdstat | read1 | read | write1 | write | bitmod => simp [isCodec, selector] at h

/-- The ends of an operation in a state. -/
inductive OpEnd (i : Instr) (s : State) : State → Prop where
  /-- Its exchange was answered by a reply of the right length. -/
  | exchange (hs : sends i = true) {rx : List Byte} (hr : acceptReply (encode i) (oracleReply (encode i) s) = .bytes rx)
      (c : Chip) (v : Value) : OpEnd i s (afterExchange s (encode i) rx s.replies.tail c v)
  /-- Its exchange failed (R231). -/
  | failure (hs : sends i = true) (hr : acceptReply (encode i) (oracleReply (encode i) s) = .failed) (c : Chip) :
      OpEnd i s (afterFailure s (encode i) s.replies.tail c)
  /-- It was refused (R235). -/
  | refusal (hs : sends i = false) {r : RefusalReason} (hr : refusalOf i = some r) : OpEnd i s (afterRefusal s r)
  /-- It gave an outcome without an exchange. -/
  | outcome (hs : sends i = false) (hr : refusalOf i = none) {o : OpResult} (ho : ∀ r, o ≠ .refusal r) :
      OpEnd i s (s.answer o)

/-- Every operation answers a next state, at one of the four ends. -/
theorem exec_ends (i : Instr) (s : State) : ∃ t, exec i s = .next t ∧ OpEnd i s t := by
  cases hs : sends i with
  | true =>
    obtain ⟨effect, value, hexec⟩ := exec_of_sends hs s
    cases hr : acceptReply (encode i) (oracleReply (encode i) s) with
    | failed => exact ⟨_, hexec.trans (command_fails _ _ hr), .failure hs hr _⟩
    | bytes rx => exact ⟨_, hexec.trans (command_exchanges _ _ hr), .exchange hs hr _ _⟩
  | false =>
    cases hr : refusalOf i with
    | some r => exact ⟨_, exec_of_refusalOf hr s, .refusal hs hr⟩
    | none =>
      obtain ⟨o, ho, hexec⟩ := exec_of_silent_outcome hs hr
      exact ⟨_, hexec s, .outcome hs hr ho⟩

/-- Whatever state an operation answers is one of its ends. -/
theorem opEnd_of_exec {i : Instr} {s t : State} (h : exec i s = .next t) : OpEnd i s t := by
  obtain ⟨u, hu, hend⟩ := exec_ends i s
  cases hu.symm.trans h
  exact hend

/-! ### Admitted operands -/

/-- The admitted READ counts: 0..MAX_DATA (R126). -/
theorem countOutOfRange_eq_false_iff {n : Int} : countOutOfRange n = false ↔ 0 ≤ n ∧ n ≤ Config.maxData := by
  simp [countOutOfRange]

/-- The admitted WRITE values: at least one, at most MAX_DATA (R130). -/
theorem writeRefusal_eq_none_iff {values : List Byte} :
    writeRefusal values = none ↔ values ≠ [] ∧ values.length ≤ Config.maxData := by
  by_cases hnil : values = []
  · simp [writeRefusal, hnil]
  · simp [writeRefusal, hnil]

/-- A WRITE that is not refused is the command of its values (R130). -/
theorem exec_write_of_admitted (addr : Byte) {values : List Byte} (h : writeRefusal values = none) (s : State) :
    exec (.write addr values) s = command (fWrite addr values) (fun c => c.write addr values) (fun _ => .unit) s := by
  simp only [exec, execWrite, h]

/-! ### The record -/

/-- `State.inv`, clause by clause. -/
theorem State.inv_iff {s : State} :
    s.inv = true ↔ (∀ e ∈ s.log, e.sound = true) ∧ s.fault.isSome = s.log.any Exchange.isFailed ∧
      Memory.wf s.chip.regs = true := by
  simp [State.inv, and_assoc]

/-- What an operation sends is one whole command of the five formats (R80-R85, R88). -/
theorem wholeCommand_encode {i : Instr} (h : sends i = true) : wholeCommand (encode i) = true := by
  cases i with
  | reset | rdstat | read1 | write1 | bitmod => rfl
  | read addr n =>
    have hn : countOutOfRange n = false := by simpa [sends] using h
    obtain ⟨_, hmax⟩ := countOutOfRange_eq_false_iff.1 hn
    have hlen : n < 15 := Int.lt_of_le_of_lt hmax (by decide)
    simpa [encode, fRead, wholeCommand] using hlen
  | write addr values =>
    have hv : writeRefusal values = none := by simpa [sends] using h
    obtain ⟨hne, hmax⟩ := writeRefusal_eq_none_iff.1 hv
    have hpos : 1 ≤ values.length := List.length_pos_iff.2 hne
    simpa [encode, fWrite, wholeCommand, Nat.lt_one_add_iff] using And.intro hpos hmax
  | rts | loadtx | readrx | decid | declen | chklen | applyrtr | encidStd | encidExt | reservedD | reservedEF =>
    simp [sends] at h

/-- A failed exchange of a whole command is a sound entry. -/
theorem Exchange.sound_failed {tx : List Byte} (h : wholeCommand tx = true) : Exchange.sound ⟨tx, .failed⟩ = true := by
  simp [Exchange.sound, h]

/-- A completed exchange of a whole command is a sound entry. -/
theorem Exchange.sound_bytes {tx rx : List Byte} (h : wholeCommand tx = true) (hl : rx.length = tx.length) :
    Exchange.sound ⟨tx, .bytes rx⟩ = true := by
  simp [Exchange.sound, h, hl]

/-- A sound entry that did not fail has a reply as long as its request (R23). -/
theorem Exchange.reply_of_sound {e : Exchange} (hs : e.sound = true) (hf : e.isFailed = false) :
    ∃ rx, e.rx = .bytes rx ∧ rx.length = e.tx.length := by
  obtain ⟨tx, rx⟩ := e
  cases rx with
  | failed => simp [Exchange.isFailed] at hf
  | bytes rx => exact ⟨rx, rfl, by simpa [Exchange.sound] using (Bool.and_eq_true_iff.1 hs).2⟩

/-- A command keeps the canonical form of the registers when its effect does. -/
theorem command_keeps_wf {tx : List Byte} {effect : Chip → Chip} {value : List Byte → Value} {s t : State}
    (he : Memory.wf (effect s.chip).regs = true) (h : command tx effect value s = .next t) :
    Memory.wf t.chip.regs = true := by
  obtain ⟨rx, _, _, rfl⟩ | ⟨_, rfl⟩ := command_cases h
  · exact he
  · exact Memory.wf_nil

/-- Every operation keeps the canonical form of the registers (log entries 5 and 6). -/
theorem exec_keeps_wf {i : Instr} {s t : State} (hw : Memory.wf s.chip.regs = true) (h : exec i s = .next t) :
    Memory.wf t.chip.regs = true := by
  cases hs : sends i with
  | false =>
    cases opEnd_of_exec h with
    | exchange ht | failure ht => simp [hs] at ht
    | refusal | outcome => exact hw
  | true =>
    cases i with
    | reset => exact command_keeps_wf Memory.wf_nil h
    | rdstat | read1 => exact command_keeps_wf hw h
    | read addr n =>
      have hn : countOutOfRange n = false := by simpa [sends] using hs
      simp only [exec, execRead, hn] at h
      exact command_keeps_wf hw h
    | write1 addr value => exact command_keeps_wf (Chip.wf_write addr [value] hw) h
    | write addr values =>
      have hv : writeRefusal values = none := by simpa [sends] using hs
      exact command_keeps_wf (Chip.wf_write addr values hw) ((exec_write_of_admitted addr hv s).symm.trans h)
    | bitmod addr mask data => exact command_keeps_wf (Chip.wf_bitModify addr mask data hw) h
    | rts | loadtx | readrx | decid | declen | chklen | applyrtr | encidStd | encidExt | reservedD | reservedEF =>
      simp [sends] at hs

/-- Every operation keeps the record sound. -/
theorem exec_keeps_inv {i : Instr} {s t : State} (hinv : s.inv = true) (h : exec i s = .next t) : t.inv = true := by
  obtain ⟨hsound, hfault, hwf⟩ := State.inv_iff.1 hinv
  have hwf' := exec_keeps_wf hwf h
  refine State.inv_iff.2 ⟨?_, ?_, hwf'⟩
  · cases opEnd_of_exec h with
    | exchange hs hr =>
      have := Exchange.sound_bytes (wholeCommand_encode hs) (acceptReply_length hr)
      simpa [afterExchange, or_imp, forall_and, this] using hsound
    | failure hs =>
      have := Exchange.sound_failed (wholeCommand_encode hs)
      simpa [afterFailure, or_imp, forall_and, this] using hsound
    | refusal | outcome => exact hsound
  · cases opEnd_of_exec h with
    | exchange => simpa [afterExchange, Exchange.isFailed] using hfault
    | failure => simp [afterFailure, Exchange.isFailed]
    | refusal | outcome => exact hfault

/-- Every step keeps the record sound. -/
theorem step_keeps_inv (s t : State) (hinv : s.inv = true) (h : step s = .next t) : t.inv = true := by
  obtain ⟨_, rfl⟩ | ⟨r, rest, i, _, _, hexec⟩ := step_cases h
  · exact hinv
  · exact exec_keeps_inv (s := { s with requests := rest, k := s.k + 1 }) hinv hexec

/-- The fault mark has one value beside none (R23). -/
theorem fault_eq_transportFailure {f : Option FaultMark} (h : f ≠ none) : f = some .transportFailure := by
  cases f with
  | none => exact absurd rfl h
  | some m => cases m; rfl

/-- No operation clears or replaces a mark that is set, but for a later refusal reason (R23, R235; log entry 4). -/
theorem exec_keeps_marks {i : Instr} {s t : State} (h : exec i s = .next t) :
    (s.fault ≠ none → t.fault = s.fault) ∧ (s.refused ≠ none → t.refused ≠ none) := by
  cases opEnd_of_exec h with
  | exchange | outcome => exact ⟨fun _ => rfl, id⟩
  | failure => exact ⟨fun hf => (fault_eq_transportFailure hf).symm, id⟩
  | refusal => exact ⟨fun _ => rfl, fun _ => Option.some_ne_none _⟩

/-! ### The registers a WRITE reaches -/

/-- A register that no byte of a data phase reaches holds what it held (R60). -/
theorem Chip.storeBytes_read_unreached (bs : List Byte) {c : Chip} {a : Nat}
    (h : ∀ j, j < bs.length → registerAt (c.pointer + j) ≠ some a) :
    Memory.read (Chip.storeBytes c bs).regs a = Memory.read c.regs a := by
  induction bs generalizing c with
  | nil => rfl
  | cons b bs ih =>
    have hfirst : registerAt c.pointer ≠ some a := h 0 (by simp)
    have hrest : ∀ j, j < bs.length → registerAt (c.pointer + 1 + j) ≠ some a := fun j hj => by
      simpa [Nat.add_assoc, Nat.add_comm 1] using h (j + 1) (by simpa using hj)
    exact (ih hrest).trans (read_storeAt_other b hfirst)

/-- The last byte of a data phase to reach a register stands there (R53). -/
theorem Chip.storeBytes_read_last (bs : List Byte) {c : Chip} {a j : Nat} (hj : j < bs.length)
    (hreach : registerAt (c.pointer + j) = some a)
    (hlast : ∀ l, j < l → l < bs.length → registerAt (c.pointer + l) ≠ some a) :
    Memory.read (Chip.storeBytes c bs).regs a = bs[j]? := by
  induction bs generalizing c j with
  | nil => simp at hj
  | cons b bs ih =>
    have shift (l : Nat) : c.pointer + (l + 1) = c.pointer + 1 + l := by omega
    cases j with
    | zero =>
      have hrest : ∀ l, l < bs.length → registerAt (c.pointer + 1 + l) ≠ some a := fun l hl =>
        shift l ▸ hlast (l + 1) (by omega) (by simpa using hl)
      exact (Chip.storeBytes_read_unreached bs hrest).trans (read_storeAt_same b hreach)
    | succ j =>
      rw [List.getElem?_cons_succ]
      exact ih (c := ⟨storeAt c.regs c.pointer b, c.epoch, c.pointer + 1⟩) (by simpa using hj) (shift j ▸ hreach)
        fun l hl hlt => shift l ▸ hlast (l + 1) (by omega) (by simpa using hlt)

/-- The two WRITE operations with admitted values are one command (R96, R128, R130). -/
theorem exec_of_write_or_write1 {addr : Byte} {values : List Byte} {i : Instr}
    (h : (i = .write addr values ∧ values ≠ [] ∧ values.length ≤ Config.maxData) ∨ (∃ v, values = [v] ∧ i = .write1 addr v))
    (s : State) : exec i s = command (fWrite addr values) (fun c => c.write addr values) (fun _ => .unit) s := by
  obtain ⟨rfl, hne, hmax⟩ | ⟨v, rfl, rfl⟩ := h
  · exact exec_write_of_admitted addr (writeRefusal_eq_none_iff.2 ⟨hne, hmax⟩) s
  · rfl

/-! ### Mode requests -/

/-- What runs after a value only appends to the log. -/
theorem andThen_log_appends {α β : Type} (r : SeqRun α) {f : α → State → SeqRun β}
    (hf : ∀ a t, SeqRun.endsAtFailure t (f a t)) : ∃ es, (r.andThen f).state.log = r.state.log ++ es := by
  obtain ⟨st, out⟩ := r
  cases out with
  | value a =>
    obtain ⟨es, hlog, _⟩ := hf a st
    exact ⟨es, hlog⟩
  | ended | noOutcome => exact ⟨[], by simp⟩

/-- One poll ends at its first failed exchange, when what follows a miss does. -/
theorem endsAtFailure_pollOnce (m : Mode) {onMiss : State → SeqRun Unit} (h : ∀ t, SeqRun.endsAtFailure t (onMiss t))
    (s : State) : SeqRun.endsAtFailure s (pollOnce m onMiss s) :=
  endsAtFailure_andThen endsAtFailure_perform fun v t => by
    split
    · exact endsAtFailure_pure (by simp)
    · exact h t

/-- The polls of a mode request end at their first failed exchange. -/
theorem endsAtFailure_pollMode (m : Mode) (again : Nat) (s : State) : SeqRun.endsAtFailure s (pollMode m again s) := by
  induction again generalizing s with
  | zero => exact endsAtFailure_pollOnce m (fun t => endsAtFailure_pure (by simp)) s
  | succ again ih => exact endsAtFailure_pollOnce m ih s

/-- An operation of a sequence that sends adds the exchange of its words to the log. -/
theorem perform_log_of_sends {α : Type} (f : Value → Option α) {i : Instr} (h : sends i = true) (s : State) :
    ∃ r, (perform f i s).state.log = s.log ++ [⟨encode i, r⟩] := by
  obtain ⟨effect, value, hexec⟩ := exec_of_sends h s.countStep
  rw [perform_of_exec (hexec.trans (command_next ..))]
  exact ⟨_, finishExchange_log ..⟩

/-- A mode request begins with its BIT-MODIFY of CANCTRL (R206). -/
theorem requestMode_log (m : Mode) (again : Nat) (s : State) :
    ∃ r es, (requestMode m again s).state.log = s.log ++ ⟨encode (setMode m), r⟩ :: es := by
  obtain ⟨r, hfirst⟩ := perform_log_of_sends asUnit (i := setMode m) rfl s
  obtain ⟨es, hrest⟩ := andThen_log_appends (perform asUnit (setMode m) s) fun _ t => endsAtFailure_pollMode m again t
  exact ⟨r, es, by simpa [requestMode, hfirst] using hrest⟩

/-! ### The obligations -/

/-- Settles O41: every operation keeps the three clauses of the record, and a step waits or performs one. -/
theorem everyStepKeepsTheRecordSound : Obligations.EveryStepKeepsTheRecordSound := by
  unfold Obligations.EveryStepKeepsTheRecordSound
  exact step_keeps_inv

/-- Settles O15: an operation that sends is a command over its own words, whose coming answer is not accepted. -/
theorem failedExchangeLeavesOnlyItsLogEntryAndTheFaultMark :
    Obligations.FailedExchangeLeavesOnlyItsLogEntryAndTheFaultMark := by
  unfold Obligations.FailedExchangeLeavesOnlyItsLogEntryAndTheFaultMark
  intro i s r rest hs hrep hfail
  obtain ⟨effect, value, hexec⟩ := exec_of_sends hs s
  have hr : acceptReply (encode i) (oracleReply (encode i) s) = .failed := by
    rw [oracleReply_scripted hrep, acceptReply_of_failsOn hfail]
  refine ⟨Chip.unknown s.draws, ?_⟩
  rw [hexec, command_fails _ _ hr, hrep, List.tail_cons]

/-- Settles O33: a codec operation has its one refusal in every state, or one outcome that is no refusal. -/
theorem codecOperationsArePure : Obligations.CodecOperationsArePure := by
  unfold Obligations.CodecOperationsArePure
  intro i hcodec
  cases hr : refusalOf i with
  | some r =>
    refine ⟨.refusal r, fun s => ⟨?_, fun h => absurd rfl (h r)⟩⟩
    rintro _ ⟨⟩
    exact exec_of_refusalOf hr s
  | none =>
    obtain ⟨o, ho, hexec⟩ := exec_of_silent_outcome (sends_of_isCodec hcodec) hr
    exact ⟨o, fun s => ⟨fun r h => absurd h (ho r), fun _ => hexec s⟩⟩

/-- Settles O34: each of the four ends has an outcome at the result port, the request port and the step index untouched. -/
theorem everyOperationEndsWithAnOutcome : Obligations.EveryOperationEndsWithAnOutcome := by
  unfold Obligations.EveryOperationEndsWithAnOutcome
  intro i s
  obtain ⟨t, hexec, hend⟩ := exec_ends i s
  cases hend with
  | exchange | failure | refusal | outcome => exact ⟨_, _, hexec, rfl, rfl, rfl⟩

/-- Settles O37: a step waits or performs an operation, and no end of an operation clears a mark. -/
theorem marksAreNeverCleared : Obligations.MarksAreNeverCleared := by
  unfold Obligations.MarksAreNeverCleared
  intro s t h
  obtain ⟨_, rfl⟩ | ⟨r, rest, i, _, _, hexec⟩ := step_cases h
  · exact ⟨fun _ => rfl, id⟩
  · exact exec_keeps_marks (s := { s with requests := rest, k := s.k + 1 }) hexec

/-- Settles O42: the run ends in a sound record (O41's lemma over the run), whose fault mark says that no exchange failed. -/
theorem cleanRunsHaveNoFailedExchange : Obligations.CleanRunsHaveNoFailedExchange := by
  unfold Obligations.CleanRunsHaveNoFailedExchange
  intro n s t hinv hrun hclean e he
  obtain ⟨hsound, hfault, _⟩ := State.inv_iff.1 (run_keeps step_keeps_inv hinv hrun)
  have hnone : t.fault = none := by simpa using (Bool.and_eq_true_iff.1 hclean).1
  have hno : ∀ e ∈ t.log, e.isFailed = false := by simpa [hnone] using hfault
  exact Exchange.reply_of_sound (hsound e he) (hno e he)

/-- Settles O43: both operations are the same command, whose effect stores the values from the address on. -/
theorem writeStoresToTheRegistersItReaches : Obligations.WriteStoresToTheRegistersItReaches := by
  unfold Obligations.WriteStoresToTheRegistersItReaches
  intro addr values i s t rest rx hi hrep hlen hexec
  have hlen' : rx.length = (fWrite addr values).length := by
    simp only [fWrite, List.length_cons, hlen]
    omega
  rw [exec_of_write_or_write1 hi, command_completes _ _ hrep hlen'] at hexec
  cases hexec
  refine ⟨Chip.storeBytes_pointer _ _, fun j a hj hreach hlast => ?_, fun a hnone => ?_⟩
  · have hread := Chip.storeBytes_read_last values (c := ⟨s.chip.regs, s.chip.epoch, addr.toNat⟩) hj hreach hlast
    rw [List.getElem?_eq_getElem hj] at hread ⊢
    exact congrArg some (Chip.register_of_read hread)
  · exact Chip.register_congr (Chip.storeBytes_epoch _ _) (Chip.storeBytes_read_unreached values hnone)

/-- Settles O6: the step takes the head of the port and runs it. -/
theorem stepPerformsTheDecodedRequest : Obligations.StepPerformsTheDecodedRequest := by
  unfold Obligations.StepPerformsTheDecodedRequest
  intro s r rest i hreq hdec
  simp only [step, takeRequest_cons hreq, runRequest, hdec]

/-- Settles O54: the mode bytes are their fields in bits 7:5, and every mode request begins with its BIT-MODIFY. -/
theorem namedModeRequestsWriteTheirField : Obligations.NamedModeRequestsWriteTheirField := by
  unfold Obligations.NamedModeRequestsWriteTheirField
  exact ⟨rfl, rfl, rfl, rfl, rfl, fun again s =>
    ⟨requestMode_log .configuration again s, requestMode_log .normal again s⟩⟩

end Sys2Proof.Machine

/-! Proofs for 20_memory: the log over a run, the reference chip's registers under the operations that store nothing, and
the reference chip's answers to READ and WRITE. The reference chip's reply to a burst is said once, for a burst within the
register space and for one past its end; reading back is that reply over the registers that O43 gives after a WRITE. -/

namespace Sys2Proof.Machine

/-! ### The log -/

/-- An operation adds at most one exchange to the log (R63, R110). -/
theorem exec_log_appends {i : Instr} {s t : State} (h : exec i s = .next t) :
    ∃ es : List Exchange, t.log = s.log ++ es ∧ es.length ≤ 1 := by
  cases opEnd_of_exec h with
  | exchange | failure => exact ⟨_, rfl, Nat.le_refl 1⟩
  | refusal | outcome => exact ⟨[], (List.append_nil _).symm, Nat.zero_le 1⟩

/-- A step adds at most one exchange to the log. -/
theorem step_log_appends {s t : State} (h : step s = .next t) :
    ∃ es : List Exchange, t.log = s.log ++ es ∧ es.length ≤ 1 := by
  obtain ⟨_, rfl⟩ | ⟨r, rest, i, _, _, hexec⟩ := step_cases h
  · exact ⟨[], (List.append_nil _).symm, Nat.zero_le 1⟩
  · exact exec_log_appends (s := { s with requests := rest, k := s.k + 1 }) hexec

/-- An operation that sends adds the exchange of its words to the log, whatever the answer. -/
theorem exec_log_of_sends {i : Instr} (h : sends i = true) (s : State) :
    ∃ t r, exec i s = .next t ∧ t.log = s.log ++ [⟨encode i, r⟩] := by
  obtain ⟨effect, value, hexec⟩ := exec_of_sends h s
  exact ⟨_, _, hexec.trans (command_next ..), finishExchange_log ..⟩

/-! ### The registers under operations that store nothing -/

/-- A READ moves the pointer and leaves every register (R28, R60). -/
@[simp] theorem Chip.readPast_register (c : Chip) (addr : Byte) (n a : Nat) :
    (c.readPast addr n).register a = c.register a := rfl

/-- A command that does not end in a transport failure keeps a register when its effect does. -/
theorem command_keeps_register {tx : List Byte} {effect : Chip → Chip} {value : List Byte → Value} {s t : State} {a : Nat}
    (he : (effect s.chip).register a = s.chip.register a) (h : command tx effect value s = .next t)
    (hok : t.result ≠ some (.error .transportFailure)) : t.chip.register a = s.chip.register a := by
  obtain ⟨rx, _, _, rfl⟩ | ⟨_, rfl⟩ := command_cases h
  · exact he
  · exact absurd rfl hok

/-- A natural count up to MAX_DATA is admitted (R126). -/
theorem countOutOfRange_natCast {n : Nat} (h : n ≤ Config.maxData) : countOutOfRange n = false :=
  countOutOfRange_eq_false_iff.2 ⟨Int.natCast_nonneg n, Int.ofNat_le.2 h⟩

/-- A READ with an admitted count is the command of its address and count (R126). -/
theorem exec_read_of_admitted (addr : Byte) {n : Int} (h : countOutOfRange n = false) (s : State) :
    exec (.read addr n) s = command (fRead addr n.toNat) (fun c => c.readPast addr n.toNat)
      (fun rx => .bytes (replySlice n.toNat rx)) s := by
  simp [exec, execRead, h]

/-! ### The reference chip's reply to a burst -/

/-- The words of a READ or a WRITE get the reply to a burst (R60). -/
theorem refChipReply_burst {op : Byte} (hop : op = Config.opcRead ∨ op = Config.opcWrite) (c : Chip)
    (rest oracle : List Byte) : refChipReply c (op :: rest) oracle = refChipBurst c op oracle rest := by
  obtain rfl | rfl := hop <;> rfl

/-- A burst past 0xFF gets no reply (R60, log entry 8). -/
theorem refChipBurst_past_end {addr : Byte} {data : List Byte} (h : 0x100 < addr.toNat + data.length) (c : Chip) (op : Byte)
    (oracle : List Byte) : refChipBurst c op oracle (addr :: data) = none := by
  simp [refChipBurst, pastEnd, h]

/-- A READ that ends at or before 0xFF gets the registers after two free bytes (R60). -/
theorem refChipBurst_read_within {addr : Byte} {data : List Byte} (h : addr.toNat + data.length ≤ 0x100) (c : Chip)
    (oracle : List Byte) : refChipBurst c Config.opcRead oracle (addr :: data) =
      some (oracle.take 2 ++ refChipData c addr.toNat data.length) := by
  simp [refChipBurst, pastEnd, Nat.not_lt.2 h]

/-- No answer is attached where the reference chip gives no reply. -/
theorem attachRefChip_of_no_reply {oracle : List Byte} {i : Instr} {s : State}
    (h : refChipReply s.chip (encode i) oracle = none) : attachRefChip oracle i s = none := by
  simp [attachRefChip, h]

/-- The reference chip's reply is the next answer. -/
theorem attachRefChip_of_reply {oracle rx : List Byte} {i : Instr} {s : State}
    (h : refChipReply s.chip (encode i) oracle = some rx) :
    attachRefChip oracle i s = some { s with replies := .bytes rx :: s.replies } := by
  simp [attachRefChip, h]

@[simp] theorem refChipData_length (c : Chip) (a n : Nat) : (refChipData c a n).length = n := by
  simp [refChipData]

/-- The data phase holds the registers in order (R60). -/
theorem refChipData_getElem? (c : Chip) (a : Nat) {n j : Nat} (h : j < n) :
    (refChipData c a n)[j]? = some (c.register (a + j)) := by
  simp [refChipData, h]

/-- A READ takes of a reply what follows its first two bytes (R83). -/
theorem replySlice_of_append {status data : List Byte} (h : status.length = 2) :
    replySlice data.length (status ++ data) = data := by
  simp [replySlice, ← h]

/-- A READ that the reference chip answers ends ok with the data phase, in every state (R60, R126). -/
theorem exec_read_on_refChip {addr : Byte} {n : Nat} {oracle : List Byte} (s : State) (hmax : n ≤ Config.maxData)
    (hend : addr.toNat + n ≤ 0x100) (hlen : oracle.length = 2 + n) :
    ∃ u v, attachRefChip oracle (.read addr n) s = some u ∧ exec (.read addr n) u = .next v ∧
      v.result = some (.ok (.bytes (refChipData s.chip addr.toNat n))) := by
  have hstatus : (oracle.take 2).length = 2 := by simp [hlen]
  have hreply : refChipReply s.chip (encode (.read addr n)) oracle =
      some (oracle.take 2 ++ refChipData s.chip addr.toNat n) := by
    rw [encode, fRead, refChipReply_burst (.inl rfl), refChipBurst_read_within (by simpa using hend)]
    simp
  have hwhole : (oracle.take 2 ++ refChipData s.chip addr.toNat n).length = (fRead addr (n : Int).toNat).length := by
    simp [fRead, hstatus]
    omega
  refine ⟨_, _, attachRefChip_of_reply hreply,
    (exec_read_of_admitted addr (countOutOfRange_natCast hmax) _).trans (command_completes _ _ rfl hwhole), ?_⟩
  simpa using replySlice_of_append (data := refChipData s.chip addr.toNat n) hstatus

/-- After a completed WRITE within the register space the data phase from its address on is the bytes written (O43's
statement, where each position reaches its own register). -/
theorem refChipData_after_write {addr : Byte} {values : List Byte} {s t : State} {rest : List Reply} {rx : List Byte}
    (hne : values ≠ []) (hmax : values.length ≤ Config.maxData) (hend : addr.toNat + values.length ≤ 0x100)
    (hrep : s.replies = .bytes rx :: rest) (hlen : rx.length = 2 + values.length)
    (hexec : exec (.write addr values) s = .next t) : refChipData t.chip addr.toNat values.length = values := by
  obtain ⟨_, hstored, _⟩ :=
    writeStoresToTheRegistersItReaches addr values _ s t rest rx (.inl ⟨rfl, hne, hmax⟩) hrep hlen hexec
  have hreach : ∀ l, l < values.length → registerAt (addr.toNat + l) = some (addr.toNat + l) := fun l hl =>
    registerAt_within (by omega)
  refine List.ext_getElem? fun j => ?_
  by_cases hj : j < values.length
  · have hlast : ∀ l, j < l → l < values.length → registerAt (addr.toNat + l) ≠ some (addr.toNat + j) := by
      intro l hjl hl
      rw [hreach l hl, ne_eq, Option.some.injEq]
      omega
    exact (refChipData_getElem? _ _ hj).trans (hstored j _ hj (hreach j hj) hlast)
  · rw [List.getElem?_eq_none (by simpa using hj), List.getElem?_eq_none (Nat.not_lt.1 hj)]

/-! ### The obligations -/

/-- Settles O38, by induction on the number of steps, each of which adds at most one exchange. -/
theorem runsOnlyAppendToTheLog : Obligations.RunsOnlyAppendToTheLog := by
  unfold Obligations.RunsOnlyAppendToTheLog
  intro n
  induction n with
  | zero =>
    intro s t h
    obtain rfl := core_run_zero h
    exact ⟨[], (List.append_nil _).symm, Nat.le_refl 0⟩
  | succ n ih =>
    intro s t h
    obtain ⟨u, hstep, hrun⟩ := core_run_succ h
    obtain ⟨es, hes, hlen⟩ := step_log_appends hstep
    obtain ⟨es', hes', hlen'⟩ := ih u t hrun
    exact ⟨es ++ es', by rw [hes', hes, List.append_assoc], by rw [List.length_append]; omega⟩

/-- Settles O44: of the operations that send only READ-STATUS and the READs do not store, and they leave the registers;
the ends of an operation that does not send leave the whole chip. -/
theorem otherOperationsLeaveTheChipRegisters : Obligations.OtherOperationsLeaveTheChipRegisters := by
  unfold Obligations.OtherOperationsLeaveTheChipRegisters
  intro i s t hstores hexec hok a
  cases hs : sends i with
  | false =>
    cases opEnd_of_exec hexec with
    | exchange ht | failure ht => simp [hs] at ht
    | refusal | outcome => rfl
  | true =>
    cases i with
    | rdstat | read1 => exact command_keeps_register rfl hexec hok
    | read addr n =>
      have hn : countOutOfRange n = false := by simpa [sends] using hs
      exact command_keeps_register rfl ((exec_read_of_admitted addr hn s).symm.trans hexec) hok
    | reset | write1 | write | bitmod => simp [stores] at hstores
    | rts | loadtx | readrx | decid | declen | chklen | applyrtr | encidStd | encidExt | reservedD | reservedEF =>
      simp [sends] at hs

/-- Settles O45: a READ answered by the reference chip ends with the data phase, which holds the registers in order and,
after a WRITE of the same registers, the bytes written. -/
theorem referenceChipReadsBackWhatWasWritten : Obligations.ReferenceChipReadsBackWhatWasWritten := by
  unfold Obligations.ReferenceChipReadsBackWhatWasWritten
  constructor
  · intro addr n s oracle hmax hend hlen
    obtain ⟨u, v, hattach, hexec, hresult⟩ := exec_read_on_refChip s hmax hend hlen
    exact ⟨u, v, _, hattach, hexec, hresult, refChipData_length .., fun j hj => refChipData_getElem? _ _ hj⟩
  · intro addr values s t rest rx oracle hne hmax hend hrep hlen horacle hwrite
    have hread := exec_read_on_refChip t hmax hend horacle
    rwa [refChipData_after_write hne hmax hend hrep hlen hwrite] at hread

/-- Settles O46: the chip's reply is that to a burst past the end, and an admitted operation sends its one exchange. -/
theorem referenceChipRefusesBurstsPastTheEnd : Obligations.ReferenceChipRefusesBurstsPastTheEnd := by
  unfold Obligations.ReferenceChipRefusesBurstsPastTheEnd
  intro addr oracle s
  constructor
  · intro n hmax hpast
    refine ⟨attachRefChip_of_no_reply ?_, exec_log_of_sends (by simp [sends, countOutOfRange_natCast hmax]) s⟩
    rw [encode, fRead, refChipReply_burst (.inl rfl), refChipBurst_past_end (by simpa using hpast)]
  · intro values hmax hpast
    have hne : values ≠ [] := by
      rintro rfl
      exact absurd addr.isLt (by simp at hpast; omega)
    have hadmitted : writeRefusal values = none := writeRefusal_eq_none_iff.2 ⟨hne, hmax⟩
    refine ⟨attachRefChip_of_no_reply ?_, exec_log_of_sends (by simp [sends, hadmitted]) s⟩
    rw [encode, fWrite, refChipReply_burst (.inr rfl), refChipBurst_past_end hpast]

end Sys2Proof.Machine

/-! Proofs for 30_encoding: the decoder and the encoder are inverse to each other. From operation to words the proof goes
by the operation, from words to operation by the rows of the decoder, each row with what its layout gives back
(`ReadsBack`). That only the five opcodes are sent, and what the pseudo-instructions expand to, follow from what an
operation that sends is: one command over its own words. -/

namespace Sys2Proof

/-! ### From operation to words and back -/

/-- The bits of an RTS request are its operand's (R86). -/
theorem decode_encode_rts (t : BitVec 3) : decode (encode (.rts t)) = .ok (.rts t) := by
  revert t; decide

/-- The bits of a LOADTX request are its operand's, up to 0b101 (R86). -/
theorem decode_encode_loadtx {abc : BitVec 3} (h : abc.toNat ≤ 5) : decode (encode (.loadtx abc)) = .ok (.loadtx abc) := by
  revert abc; decide

/-- The bits of a READRX request are its operand's (R86). -/
theorem decode_encode_readrx (nm : BitVec 2) : decode (encode (.readrx nm)) = .ok (.readrx nm) := by
  revert nm; decide

/-- READ of n registers is read back as READ1 when n is 1 (log entry 10). -/
theorem decode_encode_read_natCast (addr : Byte) (n : Nat) :
    decode (encode (.read addr n)) = .ok (canonical (.read addr n)) := by
  calc decode (encode (.read addr n))
      = decodeRead (addr :: List.replicate n Config.fill) := decodeRow_opcRead _
    _ = .ok (if n = 1 then .read1 addr else .read addr n) := decodeRead_fillers addr n
    _ = .ok (canonical (.read addr n)) := by simp [canonical]

/-- APPLYRTR's words are read back as its operands. -/
theorem decodeApplyrtr_bytesOfWord (idw : IdWord) (ctrl : Byte) :
    decodeApplyrtr (bytesOfWord idw ++ [ctrl]) = .ok (.applyrtr idw ctrl) :=
  congrArg (fun w => Except.ok (Instr.applyrtr w ctrl)) (wordOfBytes_bytesOfWord idw)

/-- ENCID's four bytes are read back as the word's number, for both values of `ext`. -/
theorem decodeEncid_bytesOfWord (w : BitVec 32) :
    decodeEncid (0x00 :: bytesOfWord w) = .ok (.encidStd w.toNat) ∧
      decodeEncid (0x01 :: bytesOfWord w) = .ok (.encidExt w.toNat) := by
  have hword := congrArg BitVec.toNat (wordOfBytes_bytesOfWord w)
  exact ⟨congrArg (Except.ok ∘ Instr.encidStd) hword, congrArg (Except.ok ∘ Instr.encidExt) hword⟩

/-- ENCID of an identifier below 2^32 is read back as itself (log entry 12). -/
theorem decode_encode_encid {id : Nat} (h : id < 2 ^ 32) :
    decode (encode (.encidStd id)) = .ok (.encidStd id) ∧ decode (encode (.encidExt id)) = .ok (.encidExt id) := by
  have hwords := decodeEncid_bytesOfWord (BitVec.ofNat 32 id)
  rwa [BitVec.toNat_ofNat, Nat.mod_eq_of_lt h] at hwords

/-! ### From words to operation and back -/

/-- What O3 says of a byte list and an operation. -/
structure ReadsBack (bs : List Byte) (i : Instr) : Prop where
  words : encode i = bs
  wellFormed : i.wellFormed = true
  oneSpelling : canonical i = i

/-- A bare first byte is read back when its operation is. -/
theorem decodeBare_readsBack {b : Byte} {i j : Instr} {rest : List Byte} (hj : ReadsBack [b] j)
    (h : decodeBare b j rest = .ok i) : ReadsBack (b :: rest) i := by
  obtain ⟨rfl, rfl⟩ := decodeBare_ok h
  exact hj

theorem decodeReadStatus_readsBack {rest : List Byte} {i : Instr} (h : decodeReadStatus rest = .ok i) :
    ReadsBack (Config.opcReadStatus :: rest) i := by
  match rest with
  | [f] =>
    by_cases hf : f = Config.fill
    · subst hf; cases h; exact ⟨rfl, rfl, rfl⟩
    · rw [decodeReadStatus, if_neg hf] at h; cases h
  | [] | _ :: _ :: _ => cases h

/-- F-READ has one spelling for each number of filler bytes (R83, log entry 10). -/
theorem decodeRead_readsBack {rest : List Byte} {i : Instr} (h : decodeRead rest = .ok i) :
    ReadsBack (Config.opcRead :: rest) i := by
  match rest with
  | [] => cases h
  | addr :: fillers =>
    cases hall : fillers.all (· == Config.fill) with
    | false => rw [decodeRead, hall] at h; cases h
    | true =>
      obtain ⟨n, rfl⟩ : ∃ n, fillers = List.replicate n Config.fill := ⟨_, fillers_eq_replicate hall⟩
      rw [decodeRead_fillers] at h
      by_cases hn : n = 1
      · subst hn; cases h; exact ⟨rfl, rfl, rfl⟩
      · rw [if_neg hn] at h
        cases h
        exact ⟨rfl, by simp [Instr.wellFormed], by simp [canonical, hn]⟩

/-- F-WRITE has one spelling for each list of data bytes (R84, log entry 10). -/
theorem decodeWrite_readsBack {rest : List Byte} {i : Instr} (h : decodeWrite rest = .ok i) :
    ReadsBack (Config.opcWrite :: rest) i := by
  match rest with
  | [] => cases h
  | [_] | [_, _] | _ :: _ :: _ :: _ => cases h; exact ⟨rfl, rfl, rfl⟩

theorem decodeBitmod_readsBack {rest : List Byte} {i : Instr} (h : decodeBitmod rest = .ok i) :
    ReadsBack (Config.opcBitmod :: rest) i := by
  match rest with
  | [_, _, _] => cases h; exact ⟨rfl, rfl, rfl⟩
  | [] | [_] | [_, _] | _ :: _ :: _ :: _ :: _ => cases h

/-- DECLEN and CHKLEN: the one operand byte is read back when the operation of every byte is. -/
theorem decodeOneByte_readsBack {b : Byte} {f : Byte → Instr} {rest : List Byte} {i : Instr}
    (hf : ∀ x, ReadsBack [b, x] (f x)) (h : decodeOneByte b f rest = .ok i) : ReadsBack (b :: rest) i := by
  match rest with
  | [x] => cases h; exact hf x
  | [] | _ :: _ :: _ => cases h

theorem decodeApplyrtr_readsBack {rest : List Byte} {i : Instr} (h : decodeApplyrtr rest = .ok i) :
    ReadsBack (0x0B :: rest) i := by
  match rest with
  | [a, b, c, d, ctrl] =>
    cases h
    exact ⟨by rw [encode, bytesOfWord_wordOfBytes]; rfl, rfl, rfl⟩
  | [] | [_] | [_, _] | [_, _, _] | [_, _, _, _] | _ :: _ :: _ :: _ :: _ :: _ :: _ => cases h

/-- The four bytes of the number of four bytes are these. -/
theorem bytesOfWord_ofNat_wordOfBytes (a b c d : Byte) :
    bytesOfWord (BitVec.ofNat 32 (wordOfBytes a b c d).toNat) = [a, b, c, d] := by
  rw [BitVec.ofNat_toNat, BitVec.setWidth_eq, bytesOfWord_wordOfBytes]

theorem decodeEncid_readsBack {rest : List Byte} {i : Instr} (h : decodeEncid rest = .ok i) :
    ReadsBack (0x0C :: rest) i := by
  match rest with
  | [ext, a, b, c, d] =>
    have hlt : (wordOfBytes a b c d).toNat < 2 ^ 32 := (wordOfBytes a b c d).isLt
    by_cases h0 : ext = 0
    · subst h0; cases h
      exact ⟨by rw [encode, bytesOfWord_ofNat_wordOfBytes], decide_eq_true hlt, rfl⟩
    · by_cases h1 : ext = 1
      · subst h1; cases h
        exact ⟨by rw [encode, bytesOfWord_ofNat_wordOfBytes], decide_eq_true hlt, rfl⟩
      · rw [decodeEncid, if_neg h0, if_neg h1] at h; cases h
  | [] | [_] | [_, _] | [_, _, _] | [_, _, _, _] | _ :: _ :: _ :: _ :: _ :: _ :: _ => cases h

/-! ### The rows -/

/-- A byte is its upper five bits and its lower three. -/
theorem upperFive_or_lowerThree (b : Byte) : (b &&& (0xF8 : Byte)) ||| (b.extractLsb' 0 3).zeroExtend 8 = b := by
  revert b; decide

/-- A byte is its bits 2:1 and the others. -/
theorem others_or_bitsTwoOne (b : Byte) : (b &&& (0xF9 : Byte)) ||| ((b.extractLsb' 1 2).zeroExtend 8 <<< 1) = b := by
  revert b; decide

theorem decodeSelectorRow_readsBack {b : Byte} {rest : List Byte} {i : Instr} (h : decodeSelectorRow b rest = .ok i) :
    ReadsBack (b :: rest) i := by
  unfold decodeSelectorRow at h
  split_ifs at h <;> subst b
  · cases h; exact ⟨rfl, rfl, rfl⟩
  · exact decodeOneByte_readsBack (fun _ => ⟨rfl, rfl, rfl⟩) h
  · exact decodeOneByte_readsBack (fun _ => ⟨rfl, rfl, rfl⟩) h
  · exact decodeApplyrtr_readsBack h
  · exact decodeEncid_readsBack h
  · exact decodeBare_readsBack ⟨rfl, rfl, rfl⟩ h
  · exact decodeBare_readsBack ⟨rfl, rfl, rfl⟩ h
  · exact decodeBare_readsBack ⟨rfl, rfl, rfl⟩ h

/-- The refused commands: the operand bits and the row's own bits are the whole byte (R86). -/
theorem decodeRefusedRow_readsBack {b : Byte} {rest : List Byte} {i : Instr} (h : decodeRefusedRow b rest = .ok i) :
    ReadsBack (b :: rest) i := by
  unfold decodeRefusedRow at h
  split_ifs at h with hrts hloadtx hreadrx
  · exact decodeBare_readsBack ⟨by rw [encode, ← hrts, upperFive_or_lowerThree], rfl, rfl⟩ h
  · obtain ⟨hrow, hfield⟩ := hloadtx
    have hwf : (Instr.loadtx (b.extractLsb' 0 3)).wellFormed = true := decide_eq_true hfield
    exact decodeBare_readsBack ⟨by rw [encode, ← hrow, upperFive_or_lowerThree], hwf, rfl⟩ h
  · exact decodeBare_readsBack ⟨by rw [encode, ← hreadrx, others_or_bitsTwoOne], rfl, rfl⟩ h
  · exact decodeSelectorRow_readsBack h

theorem decodeRow_readsBack {b : Byte} {rest : List Byte} {i : Instr} (h : decodeRow b rest = .ok i) :
    ReadsBack (b :: rest) i := by
  unfold decodeRow at h
  split_ifs at h
  · subst b; exact decodeBare_readsBack ⟨rfl, rfl, rfl⟩ h
  · subst b; exact decodeReadStatus_readsBack h
  · subst b; exact decodeRead_readsBack h
  · subst b; exact decodeWrite_readsBack h
  · subst b; exact decodeBitmod_readsBack h
  · exact decodeRefusedRow_readsBack h

/-! ### The obligations on words -/

/-- Settles O2, by the operation: each one's words lead to its row, whose layout gives the operands back. -/
theorem decodingTheEncodedOperationGivesItBack : Obligations.DecodingTheEncodedOperationGivesItBack := by
  unfold Obligations.DecodingTheEncodedOperationGivesItBack
  intro i hwf
  cases i with
  | reset | rdstat | read1 | write1 | bitmod | decid | declen | chklen | reservedD => rfl
  | read addr n =>
    have hn : 0 ≤ n := of_decide_eq_true hwf
    lift n to ℕ using hn
    exact decode_encode_read_natCast addr n
  | write addr values => exact decodeWrite_values addr values
  | rts t => exact decode_encode_rts t
  | loadtx abc => exact decode_encode_loadtx (of_decide_eq_true hwf)
  | readrx nm => exact decode_encode_readrx nm
  | applyrtr idw ctrl => exact decodeApplyrtr_bytesOfWord idw ctrl
  | encidStd id => exact (decode_encode_encid (of_decide_eq_true hwf)).left
  | encidExt id => exact (decode_encode_encid (of_decide_eq_true hwf)).right
  | reservedEF low => cases low <;> rfl

/-- Settles O3, by the rows of the decoder. -/
theorem encodingTheDecodedBytesGivesThemBack : Obligations.EncodingTheDecodedBytesGivesThemBack := by
  unfold Obligations.EncodingTheDecodedBytesGivesThemBack
  intro bs i h
  cases bs with
  | nil => cases h
  | cons b rest =>
    obtain ⟨hwords, hwf, hspelling⟩ := decodeRow_readsBack h
    exact ⟨hwords, hwf, hspelling⟩

/-- Settles O1, by running the decoder on the ten byte lists. -/
theorem writtenOutWordsDecodeToTheirOperations : Obligations.WrittenOutWordsDecodeToTheirOperations := by
  unfold Obligations.WrittenOutWordsDecodeToTheirOperations
  exact ⟨rfl, rfl, rfl, rfl, rfl, rfl, rfl, rfl, rfl, rfl⟩

end Sys2Proof

namespace Sys2Proof.Machine

/-! ### What is sent -/

/-- A whole command begins with one of the five opcodes (R80, R88). -/
theorem opcode_of_wholeCommand {tx : List Byte} (h : wholeCommand tx = true) :
    ∃ op rest, tx = op :: rest ∧
      op ∈ [Config.opcReset, Config.opcReadStatus, Config.opcRead, Config.opcWrite, Config.opcBitmod] := by
  cases tx with
  | nil => cases h
  | cons op rest =>
    refine ⟨op, rest, rfl, ?_⟩
    simp only [wholeCommand, Bool.or_eq_true, Bool.and_eq_true, decide_eq_true_eq] at h
    simp only [List.mem_cons, List.not_mem_nil, or_false]
    tauto

/-- The exchange an operation adds to the log is that of its own words, and the operation sends (R110). -/
theorem sends_of_exec_logs {i : Instr} {s t : State} {e : Exchange} (h : exec i s = .next t) (hlog : t.log = s.log ++ [e]) :
    sends i = true ∧ e.tx = encode i := by
  cases opEnd_of_exec h with
  | exchange hs | failure hs =>
    obtain rfl : _ = e := by simpa [afterExchange, afterFailure] using hlog
    exact ⟨hs, rfl⟩
  | refusal | outcome => simp [afterRefusal] at hlog

/-! ### READ1 and READ of one byte -/

/-- Of the three bytes that answer a READ of one byte, READ1 takes the byte and READ the sequence of it (R83, R96). -/
theorem replySlice_one {rx : List Byte} (h : rx.length = 3) : replySlice 1 rx = [replyByte 2 rx] := by
  match rx, h with
  | [_, _, _], _ => rfl

/-! ### The obligations on the commands -/

/-- Settles O5: what is sent is the operation's own words, one whole command. -/
theorem onlyInScopeOpcodesAreSent : Obligations.OnlyInScopeOpcodesAreSent := by
  unfold Obligations.OnlyInScopeOpcodesAreSent
  intro i s t e hexec hlog
  obtain ⟨hs, htx⟩ := sends_of_exec_logs hexec hlog
  rw [htx]
  exact opcode_of_wholeCommand (wholeCommand_encode hs)

/-- Settles O19: READ1 and READ of one byte are the same command but for the shape of the value, WRITE1 and WRITE of one
byte the same command, and SETMODE and CLRFLAG are defined as their BIT-MODIFY. -/
theorem pseudoInstructionsAreTheirExpansions : Obligations.PseudoInstructionsAreTheirExpansions := by
  unfold Obligations.PseudoInstructionsAreTheirExpansions
  refine ⟨fun addr s => ⟨rfl, ?_⟩, fun addr v s => ⟨rfl, ?_⟩, fun m => ⟨modeByte m, ?_, rfl⟩, fun b => ?_⟩
  · have hread := exec_read_of_admitted addr (n := 1) rfl s
    have hread1 : exec (.read1 addr) s =
      command (fRead addr 1) (fun c => c.readPast addr 1) (fun rx => .byte (replyByte 2 rx)) s := rfl
    rw [hread, hread1]
    cases hr : acceptReply (fRead addr 1) (oracleReply (fRead addr 1) s) with
    | failed => exact ⟨_, command_fails _ _ hr, .inr ⟨rfl, command_fails _ _ hr⟩⟩
    | bytes rx =>
      refine ⟨_, command_exchanges _ _ hr, .inl ⟨_, rfl, (command_exchanges _ _ hr).trans ?_⟩⟩
      rw [Int.toNat_one, replySlice_one (acceptReply_length hr)]
      rfl
  · exact (exec_of_write_or_write1 (.inr ⟨v, rfl, rfl⟩) s).trans (exec_write_of_admitted addr rfl s).symm
  · cases m <;> rfl
  · cases b <;> rfl

end Sys2Proof.Machine

/-! Proofs for 40_spi_commands: the five commands, each with its words, its end when the coming answer is accepted and its
end when that answer fails. The failure is O15's, for every operation that sends; the completed exchange is said once, for
every command. That different requests differ in their words is the decoder's doing (O2). -/

namespace Sys2Proof.Machine

/-! ### A command and the answer that stands in State -/

/-- A command whose answer stands in State with the right length leaves the exchange written out in `afterExchange` (R112). -/
theorem command_answered {tx rx : List Byte} {rest : List Reply} {s : State} (effect : Chip → Chip)
    (value : List Byte → Value) (hrep : s.replies = .bytes rx :: rest) (hlen : rx.length = tx.length) :
    command tx effect value s = .next (afterExchange s tx rx rest (effect s.chip) (value rx)) := by
  have hr : acceptReply tx (oracleReply tx s) = .bytes rx := by
    rw [oracleReply_scripted hrep, acceptReply_right hlen]
  rw [command_exchanges _ _ hr, hrep, List.tail_cons]

/-! ### Admitted and refused operands -/

/-- An operation that sends is well formed: of the commands only READ has a bounded operand, and an admitted count is not
below 0. -/
theorem wellFormed_of_sends {i : Instr} (h : sends i = true) : i.wellFormed = true := by
  cases i with
  | reset | rdstat | read1 | write1 | write | bitmod => rfl
  | read addr n =>
    have hn : countOutOfRange n = false := by simpa [sends] using h
    exact decide_eq_true (countOutOfRange_eq_false_iff.1 hn).left
  | rts | loadtx | readrx | decid | declen | chklen | applyrtr | encidStd | encidExt | reservedD | reservedEF =>
    simp [sends] at h

/-- A READ count below 0 or above MAX_DATA is the reason BurstTooLong (R126). -/
theorem refusalOf_read_of_out_of_range (addr : Byte) {n : Int} (h : n < 0 ∨ (Config.maxData : Int) < n) :
    refusalOf (.read addr n) = some .burstTooLong := by
  have hn : countOutOfRange n = true := by simpa [countOutOfRange] using h
  simp [refusalOf, hn]

/-- More than MAX_DATA values are the reason BurstTooLong (R130). -/
theorem writeRefusal_of_too_long {values : List Byte} (h : Config.maxData < values.length) :
    writeRefusal values = some .burstTooLong := by
  have hne : values.length ≠ 0 := Nat.ne_zero_of_lt h
  rw [writeRefusal, if_neg hne, if_pos h]

/-! ### What is read of a reply -/

/-- A reply with n bytes after its first two gives a READ these n bytes (R83). -/
theorem replySlice_length {rx : List Byte} {n : Nat} (h : rx.length = 2 + n) : (replySlice n rx).length = n := by
  simp [replySlice, h]

/-- Byte j of a READ's value is reply byte 2 + j (R83). -/
theorem replySlice_getElem? (rx : List Byte) {n j : Nat} (h : j < n) : (replySlice n rx)[j]? = rx[2 + j]? := by
  rw [replySlice, List.getElem?_take_of_lt h, List.getElem?_drop]

/-- A reply byte is a function of what the reply has at its position. -/
theorem replyByte_congr {i : Nat} {rx rx' : List Byte} (h : rx[i]? = rx'[i]?) : replyByte i rx = replyByte i rx' := by
  simp only [replyByte, List.getD_eq_getElem?_getD, h]

/-- The third reply byte is a function of the bytes from 2 on. -/
theorem replyByte_two_congr {rx rx' : List Byte} (h : rx.drop 2 = rx'.drop 2) : replyByte 2 rx = replyByte 2 rx' := by
  have hthird : (rx.drop 2)[0]? = (rx'.drop 2)[0]? := by rw [h]
  exact replyByte_congr (by simpa using hthird)

/-! ### The masked byte of BIT-MODIFY -/

/-- Bit by bit, the masked byte takes the data where the mask is set and keeps the old byte elsewhere (R60). -/
theorem maskedByte_getLsbD (old mask data : Byte) {j : Nat} (h : j < 8) :
    (maskedByte old mask data).getLsbD j = if mask.getLsbD j then data.getLsbD j else old.getLsbD j := by
  simp only [maskedByte, BitVec.getLsbD_or, BitVec.getLsbD_and, BitVec.getLsbD_not, h]
  cases mask.getLsbD j <;> simp

/-! ### Operations that answer two replies alike -/

/-- The operation ends alike on the two replies: its next states differ at most in the log entry and in the answers left. -/
def EndsAlike (i : Instr) (s : State) (rx rx' : List Byte) : Prop :=
  ∀ t t' : State, exec i { s with replies := [.bytes rx] } = .next t → exec i { s with replies := [.bytes rx'] } = .next t' →
    t' = { t with log := t'.log, replies := t'.replies }

/-- A command ends alike on two replies of one length that have one value: both are accepted, or none is. -/
theorem endsAlike_of_command {i : Instr} {s : State} {tx rx rx' : List Byte} {effect : Chip → Chip}
    {value : List Byte → Value}
    (hexec : ∀ rs : List Reply, exec i { s with replies := rs } = command tx effect value { s with replies := rs })
    (hlen : rx.length = rx'.length) (hvalue : value rx = value rx') : EndsAlike i s rx rx' := by
  intro t t' ht ht'
  rw [hexec] at ht ht'
  by_cases hl : rx.length = tx.length
  · rw [command_answered _ _ rfl hl] at ht
    rw [command_answered _ _ rfl (hlen.symm.trans hl)] at ht'
    cases ht; cases ht'
    simp only [afterExchange, hvalue]
  · have hl' : rx'.length ≠ tx.length := hlen ▸ hl
    rw [command_fails _ _ (acceptReply_wrong hl)] at ht
    rw [command_fails _ _ (acceptReply_wrong hl')] at ht'
    cases ht; cases ht'
    rfl

/-- An operation that does not send ends alike on any two replies: it is one refusal or one outcome in every state. -/
theorem endsAlike_of_not_sends {i : Instr} (hs : sends i = false) (s : State) (rx rx' : List Byte) :
    EndsAlike i s rx rx' := by
  intro t t' ht ht'
  cases hr : refusalOf i with
  | some r =>
    rw [exec_of_refusalOf hr, refuse_eq] at ht ht'
    cases ht; cases ht'
    rfl
  | none =>
    obtain ⟨o, hexec⟩ := exec_of_silent_uniform hs hr
    rw [hexec] at ht ht'
    cases ht; cases ht'
    rfl

/-- Every operation ends alike on two replies of one length that agree where its format is read (R110, R146). -/
theorem endsAlike_of_read_bytes {i : Instr} (s : State) {rx rx' : List Byte} (hlen : rx.length = rx'.length)
    (hstatus : i = .rdstat → rx[1]? = rx'[1]?)
    (hread : (∃ a, i = .read1 a) ∨ (∃ a n, i = .read a n) → rx.drop 2 = rx'.drop 2) : EndsAlike i s rx rx' := by
  cases hs : sends i with
  | false => exact endsAlike_of_not_sends hs s rx rx'
  | true =>
    cases i with
    | reset =>
      exact endsAlike_of_command (effect := fun _ => Chip.unknown s.draws) (value := fun _ => .unit) (fun _ => rfl) hlen rfl
    | write1 | bitmod => exact endsAlike_of_command (value := fun _ => .unit) (fun _ => rfl) hlen rfl
    | rdstat =>
      exact endsAlike_of_command (fun _ => rfl) hlen (congrArg Value.byte (replyByte_congr (hstatus rfl)))
    | read1 addr =>
      have hdrop := hread (.inl ⟨addr, rfl⟩)
      exact endsAlike_of_command (fun _ => rfl) hlen (congrArg Value.byte (replyByte_two_congr hdrop))
    | read addr n =>
      have hdrop := hread (.inr ⟨addr, n, rfl⟩)
      have hn : countOutOfRange n = false := by simpa [sends] using hs
      exact endsAlike_of_command (fun _ => exec_read_of_admitted addr hn _) hlen (by simp only [replySlice, hdrop])
    | write addr values =>
      have hv : writeRefusal values = none := by simpa [sends] using hs
      exact endsAlike_of_command (fun _ => exec_write_of_admitted addr hv _) hlen rfl
    | rts | loadtx | readrx | decid | declen | chklen | applyrtr | encidStd | encidExt | reservedD | reservedEF =>
      simp [sends] at hs

/-! ### The obligations on the five commands -/

/-- Settles O4: the decoder reads each request's one spelling back from its words (O2). -/
theorem differentCommandsSendDifferentBytes : Obligations.DifferentCommandsSendDifferentBytes := by
  unfold Obligations.DifferentCommandsSendDifferentBytes
  intro i j hi hj hwords
  have hdi := decodingTheEncodedOperationGivesItBack i (wellFormed_of_sends hi)
  have hdj := decodingTheEncodedOperationGivesItBack j (wellFormed_of_sends hj)
  rw [hwords, hdj] at hdi
  exact (Except.ok.inj hdi).symm

/-- Settles O11: a count out of range is refused, and with any other READ is the command of its address and count, whose
value is the slice of the reply from byte 2 on. -/
theorem readReturnsTheReplyBytesFromTwoOn : Obligations.ReadReturnsTheReplyBytesFromTwoOn := by
  unfold Obligations.ReadReturnsTheReplyBytesFromTwoOn
  refine fun addr n => ⟨rfl, fun s hn => exec_of_refusalOf (refusalOf_read_of_out_of_range addr hn) s, ?_⟩
  rintro s m rest r rfl hmax hrep
  have hadmitted := countOutOfRange_natCast hmax
  constructor
  · rintro rx rfl hlen
    have hwhole : rx.length = (fRead addr m).length := by
      simp only [fRead, List.length_cons, List.length_replicate]
      omega
    exact ⟨replySlice m rx, replySlice_length hlen, fun j hj => replySlice_getElem? rx hj,
      (exec_read_of_admitted addr hadmitted s).trans (command_answered _ _ hrep hwhole)⟩
  · have hsends : sends (.read addr m) = true := by simp [sends, hadmitted]
    exact failedExchangeLeavesOnlyItsLogEntryAndTheFaultMark _ s r rest hsends hrep

/-- Settles O13: no value and too many are refused, and with any others WRITE is the command of its address and values. -/
theorem writeSendsTheValuesInOrder : Obligations.WriteSendsTheValuesInOrder := by
  unfold Obligations.WriteSendsTheValuesInOrder
  refine fun addr values => ⟨rfl, ?_, ?_, ?_⟩
  · rintro s rfl
    exact exec_of_refusalOf rfl s
  · exact fun s hlong => exec_of_refusalOf (i := .write addr values) (writeRefusal_of_too_long hlong) s
  · intro s rest r hne hmax hrep
    have hadmitted : writeRefusal values = none := writeRefusal_eq_none_iff.2 ⟨hne, hmax⟩
    constructor
    · rintro rx rfl hlen
      have hwhole : rx.length = (fWrite addr values).length := by
        simp only [fWrite, List.length_cons]
        omega
      exact (exec_write_of_admitted addr hadmitted s).trans (command_answered _ _ hrep hwhole)
    · have hsends : sends (.write addr values) = true := by simp [sends, hadmitted]
      exact failedExchangeLeavesOnlyItsLogEntryAndTheFaultMark _ s r rest hsends hrep

/-- Settles O14: BIT-MODIFY is the command of its three bytes, whose effect stores the masked byte to the one register. -/
theorem bitModifyChangesOnlyTheMaskedBits : Obligations.BitModifyChangesOnlyTheMaskedBits := by
  unfold Obligations.BitModifyChangesOnlyTheMaskedBits
  refine fun addr mask data => ⟨rfl, fun s rest r hrep => ⟨?_, ?_⟩⟩
  · rintro rx rfl hlen
    refine ⟨s.chip.bitModify addr mask data, command_answered _ _ hrep hlen, rfl, fun j hj => ?_, fun a ha => ?_⟩
    · rw [Chip.bitModify_register_same, maskedByte_getLsbD _ _ _ hj]
    · exact Chip.bitModify_register_other _ _ _ _ ha
  · exact failedExchangeLeavesOnlyItsLogEntryAndTheFaultMark (.bitmod addr mask data) s r rest rfl hrep

/-- Settles O18: the next states on the two replies differ at most in the log entry and the answers left. -/
theorem unreadReplyBytesDoNotChangeTheOutcome : Obligations.UnreadReplyBytesDoNotChangeTheOutcome := by
  unfold Obligations.UnreadReplyBytesDoNotChangeTheOutcome
  intro i s t t' rx rx' hlen hstatus hread ht ht'
  rw [endsAlike_of_read_bytes s hlen hstatus hread t t' ht ht']
  exact ⟨rfl, rfl, rfl, rfl⟩

/-- Settles O36: of the four ends of an operation two are those of one exchange, and the other two leave what it names. -/
theorem everyCommandPerformsExactlyOneExchange : Obligations.EveryCommandPerformsExactlyOneExchange := by
  unfold Obligations.EveryCommandPerformsExactlyOneExchange
  intro i s t hexec
  cases opEnd_of_exec hexec with
  | exchange hs | failure hs => exact ⟨fun _ => ⟨_, rfl, rfl⟩, fun h => by simp [hs] at h⟩
  | refusal hs | outcome hs => exact ⟨fun h => by simp [hs] at h, fun _ => ⟨rfl, rfl, rfl, rfl, rfl⟩⟩

/-- Settles O8: RESET is the command of its opcode, and its value reads no reply byte. -/
theorem resetSendsItsOpcodeAndReadsNoReply : Obligations.ResetSendsItsOpcodeAndReadsNoReply := by
  unfold Obligations.ResetSendsItsOpcodeAndReadsNoReply
  refine ⟨rfl, fun s rest r hrep => ⟨?_, ?_⟩⟩
  · rintro b rfl
    exact ⟨_, command_answered _ _ hrep rfl⟩
  · exact failedExchangeLeavesOnlyItsLogEntryAndTheFaultMark .reset s r rest rfl hrep

/-- Settles O9: READ-STATUS is the command of its opcode and a filler byte, whose value is the second reply byte. -/
theorem readStatusReturnsTheSecondReplyByte : Obligations.ReadStatusReturnsTheSecondReplyByte := by
  unfold Obligations.ReadStatusReturnsTheSecondReplyByte
  refine ⟨rfl, fun s rest r hrep => ⟨?_, ?_⟩⟩
  · rintro b0 b1 rfl
    exact command_answered _ _ hrep rfl
  · exact failedExchangeLeavesOnlyItsLogEntryAndTheFaultMark .rdstat s r rest rfl hrep

/-- Settles O10: READ1 is the command of its address and a filler byte, whose value is the third reply byte. -/
theorem readOneReturnsTheThirdReplyByte : Obligations.ReadOneReturnsTheThirdReplyByte := by
  unfold Obligations.ReadOneReturnsTheThirdReplyByte
  refine fun addr => ⟨rfl, fun s rest r hrep => ⟨?_, ?_⟩⟩
  · rintro b0 b1 b2 rfl
    exact command_answered _ _ hrep rfl
  · exact failedExchangeLeavesOnlyItsLogEntryAndTheFaultMark (.read1 addr) s r rest rfl hrep

/-- Settles O12: WRITE1 is the command of its address and value, and its value reads no reply byte. -/
theorem writeOneSendsTheValueAndReadsNoReply : Obligations.WriteOneSendsTheValueAndReadsNoReply := by
  unfold Obligations.WriteOneSendsTheValueAndReadsNoReply
  refine fun addr value => ⟨rfl, fun s rest r hrep => ⟨?_, ?_⟩⟩
  · rintro rx rfl hlen
    exact command_answered _ _ hrep hlen
  · exact failedExchangeLeavesOnlyItsLogEntryAndTheFaultMark (.write1 addr value) s r rest rfl hrep

/-- Settles O17: each of these operations has the one refusal reason, whatever its operand. -/
theorem commandsOutOfScopeAreRefused : Obligations.CommandsOutOfScopeAreRefused := by
  unfold Obligations.CommandsOutOfScopeAreRefused
  exact fun s _ _ _ _ => ⟨exec_of_refusalOf rfl s, rfl, exec_of_refusalOf rfl s, rfl, exec_of_refusalOf rfl s, rfl,
    exec_of_refusalOf rfl s, rfl, exec_of_refusalOf rfl s, rfl⟩

end Sys2Proof.Machine

/-! Proofs for 41_frame_codec. The identifier fields are said in numbers once, for the decoder (the identifier of the
header bytes) and for the encoder (the header bytes of the identifier): the layouts and both round trips are then
arithmetic. The flags of the identifier word are said bit by bit, and as a sum. -/

namespace Sys2Proof.Machine

/-! ### Fields of one byte -/

/-- The bits that every DECID reads hold the low part of a standard identifier (R154). -/
theorem upperThree_and_readMask (b : Byte) : (b &&& (0xE8 : Byte)).extractLsb' 5 3 = b.extractLsb' 5 3 := by
  rw [BitVec.extractLsb'_and]
  exact BitVec.and_allOnes

theorem lowerTwo_and_lowerTwo (b : Byte) : (b &&& (0x03 : Byte)).extractLsb' 0 2 = b.extractLsb' 0 2 := by
  rw [BitVec.extractLsb'_and]
  exact BitVec.and_allOnes

/-- The bits that every DECID reads hold the format flag (R154). -/
theorem headerExt_and_readMask (b : Byte) : headerExt (b &&& (0xE8 : Byte)) = headerExt b := by
  rw [headerExt, BitVec.getLsbD_and]
  exact Bool.and_true _

theorem headerExt_eq (b : Byte) : headerExt b = decide (b.toNat / 8 % 2 = 1) := by
  rw [headerExt, ← BitVec.testBit_toNat]
  exact Nat.testBit_eq_decide_div_mod_eq

/-- The length field is the byte modulo 16 (R93). -/
theorem lengthField_toNat (b : Byte) : (lengthField b).toNat = b.toNat % 16 := by
  have hmask : b.toNat &&& 15 = b.toNat % 16 := Nat.and_two_pow_sub_one_eq_mod b.toNat 4
  rw [lengthField, BitVec.truncate, BitVec.toNat_setWidth, BitVec.toNat_and]
  simp [hmask]

theorem lengthField_zeroExtend (b : Byte) : (lengthField b).zeroExtend 8 = b &&& 0x0F := by
  revert b; decide

/-- E1 of the extended layout: its three fields do not overlap (R94). -/
theorem extendedByteOne_eq : ∀ a < 8, ∀ c < 4,
    (BitVec.ofNat 8 a <<< 5) ||| ((1 : Byte) <<< Config.ideBit) ||| BitVec.ofNat 8 c =
      BitVec.ofNat 8 (a * 32 + 8 + c) := by
  decide

/-- What DECID reads of such a byte: the format flag and the two identifier fields. -/
theorem extendedByteOne_fields : ∀ a < 8, ∀ c < 4, headerExt (BitVec.ofNat 8 (a * 32 + 8 + c)) = true ∧
    (BitVec.ofNat 8 (a * 32 + 8 + c)).toNat / 32 = a ∧ (BitVec.ofNat 8 (a * 32 + 8 + c)).toNat % 4 = c := by
  decide

/-- H1 of the standard canonical form: the identifier's low bits, all else 0 (R170). -/
theorem and_standardMask_eq (b : Byte) : b &&& (0xE0 : Byte) = BitVec.ofNat 8 (b.toNat / 32 * 32) := by
  revert b; decide

/-- H1 of the extended canonical form: two identifier fields and the format flag (R170). -/
theorem and_extendedMask_or_ide_eq (b : Byte) :
    (b &&& (0xE3 : Byte)) ||| 0x08 = BitVec.ofNat 8 (b.toNat / 32 * 32 + 8 + b.toNat % 4) := by
  revert b; decide

/-! ### Identifiers of header bytes -/

/-- Fields that do not overlap add up. -/
theorem or_eq_add_of_dvd (n : Nat) {a b : Nat} (ha : 2 ^ n ∣ a) (hb : b < 2 ^ n) : a ||| b = a + b := by
  obtain ⟨c, rfl⟩ := ha
  exact (Nat.two_pow_add_eq_or_of_lt hb c).symm

/-- R90 in numbers. -/
theorem stdId_toNat (h0 h1 : Byte) : (stdId h0 h1).toNat = h0.toNat * 8 + h1.toNat / 32 := by
  have hfields : (stdId h0 h1).toNat = h0.toNat * 8 ||| h1.toNat / 32 := by
    simp (disch := omega) [stdId, Nat.shiftLeft_eq, Nat.shiftRight_eq_div_pow, Nat.mod_eq_of_lt]
  rw [hfields, or_eq_add_of_dvd 3 (by omega) (by omega)]

/-- R91 in numbers: a standard identifier and three fields after it. -/
theorem extId_toNat (h0 h1 h2 h3 : Byte) : (extId h0 h1 h2 h3).toNat =
    (stdId h0 h1).toNat * 2 ^ 18 + h1.toNat % 4 * 2 ^ 16 + h2.toNat * 2 ^ 8 + h3.toNat := by
  have hfields : (extId h0 h1 h2 h3).toNat =
      (stdId h0 h1).toNat * 2 ^ 18 ||| h1.toNat % 4 * 2 ^ 16 ||| h2.toNat * 2 ^ 8 ||| h3.toNat := by
    simp (disch := omega) [extId, Nat.shiftLeft_eq, Nat.mod_eq_of_lt]
  have h18 : (stdId h0 h1).toNat * 2 ^ 18 ||| h1.toNat % 4 * 2 ^ 16 = _ := or_eq_add_of_dvd 18 (by omega) (by omega)
  have h16 : (stdId h0 h1).toNat * 2 ^ 18 + h1.toNat % 4 * 2 ^ 16 ||| h2.toNat * 2 ^ 8 = _ :=
    or_eq_add_of_dvd 16 (by omega) (by omega)
  rw [hfields, h18, h16, or_eq_add_of_dvd 8 (by omega) (by omega)]

/-- A standard identifier reads of H1 its upper three bits (R154). -/
theorem stdId_congr {h1 g1 : Byte} (hupper : h1 &&& 0xE8 = g1 &&& 0xE8) (h0 : Byte) : stdId h0 h1 = stdId h0 g1 := by
  rw [stdId, ← upperThree_and_readMask, hupper, upperThree_and_readMask, stdId]

/-- An extended identifier reads of H1 its upper three and lower two bits (R154). -/
theorem extId_congr {h1 g1 : Byte} (hupper : h1 &&& 0xE8 = g1 &&& 0xE8) (hlower : h1 &&& 0x03 = g1 &&& 0x03)
    (h0 h2 h3 : Byte) : extId h0 h1 h2 h3 = extId h0 g1 h2 h3 := by
  rw [extId, stdId_congr hupper, ← lowerTwo_and_lowerTwo, hlower, lowerTwo_and_lowerTwo, extId]

/-- The identifier DECID gives (R152). -/
def headerId (h0 h1 h2 h3 : Byte) : ExtId :=
  if headerExt h1 then extId h0 h1 h2 h3 else (stdId h0 h1).zeroExtend 29

theorem headerId_of_standard {h1 : Byte} (h : headerExt h1 = false) (h0 h2 h3 : Byte) :
    headerId h0 h1 h2 h3 = (stdId h0 h1).zeroExtend 29 := if_neg (ne_true_of_eq_false h)

theorem headerId_of_extended {h1 : Byte} (h : headerExt h1 = true) (h0 h2 h3 : Byte) :
    headerId h0 h1 h2 h3 = extId h0 h1 h2 h3 := if_pos h

theorem headerId_toNat_of_standard {h1 : Byte} (h : headerExt h1 = false) (h0 h2 h3 : Byte) :
    (headerId h0 h1 h2 h3).toNat = h0.toNat * 8 + h1.toNat / 32 := by
  rw [headerId_of_standard h, BitVec.zeroExtend, BitVec.toNat_setWidth_of_le (by decide), stdId_toNat]

theorem headerId_toNat_of_extended {h1 : Byte} (h : headerExt h1 = true) (h0 h2 h3 : Byte) :
    (headerId h0 h1 h2 h3).toNat =
      (h0.toNat * 8 + h1.toNat / 32) * 2 ^ 18 + (h1.toNat % 4) * 2 ^ 16 + h2.toNat * 2 ^ 8 + h3.toNat := by
  rw [headerId_of_extended h, extId_toNat, stdId_toNat]

/-- A standard identifier has 11 bits (R90). -/
theorem headerId_lt_of_standard {h1 : Byte} (h : headerExt h1 = false) (h0 h2 h3 : Byte) :
    (headerId h0 h1 h2 h3).toNat < 2 ^ 11 := by
  rw [headerId_toNat_of_standard h]
  omega

/-! ### The identifier word -/

theorem wordFlag_true (n : Nat) : wordFlag true n = BitVec.twoPow 32 n := rfl

theorem wordFlag_false (n : Nat) : wordFlag false n = 0 := rfl

theorem wordFlag_getLsbD (f : Bool) {n : Nat} (hn : n < 32) (j : Nat) :
    (wordFlag f n).getLsbD j = (f && decide (j = n)) := by
  cases f with
  | false => rw [wordFlag_false]; exact BitVec.getLsbD_zero
  | true => simp [wordFlag_true, BitVec.getLsbD_twoPow, hn, eq_comm]

theorem wordFlag_toNat (f : Bool) {n : Nat} (hn : n < 32) : (wordFlag f n).toNat = if f then 2 ^ n else 0 := by
  cases f with
  | false => rfl
  | true => rw [wordFlag_true, BitVec.toNat_twoPow_of_lt hn, if_pos rfl]

/-- A flag ORed in at a bit that is 0 adds that bit's weight. -/
theorem or_wordFlag_toNat {w : IdWord} {n : Nat} (hn : n < 32) (hw : w.getLsbD n = false) (f : Bool) :
    (w ||| wordFlag f n).toNat = w.toNat + if f then 2 ^ n else 0 := by
  have hdisjoint : w &&& wordFlag f n = 0 := by
    apply BitVec.eq_of_getLsbD_eq
    intro j _
    rw [BitVec.getLsbD_and, wordFlag_getLsbD f hn]
    by_cases hj : j = n <;> simp [hj, hw]
  rw [← BitVec.add_eq_or_of_and_eq_zero _ _ hdisjoint, BitVec.toNat_add_of_and_eq_zero hdisjoint, wordFlag_toNat f hn]

/-- The word of DECID, whose RTR flag is 0 (R152). -/
theorem identWord_eq (i : ExtId) (e : Bool) :
    identWord i e false = i.zeroExtend 32 ||| wordFlag e Config.extFlagBit := BitVec.or_zero

theorem identWord_getLsbD (i : ExtId) (e : Bool) (j : Nat) :
    (identWord i e false).getLsbD j = (i.getLsbD j || (e && decide (j = Config.extFlagBit))) := by
  rw [identWord_eq, BitVec.getLsbD_or, wordFlag_getLsbD _ (by decide), BitVec.zeroExtend]
  cases hj : i.getLsbD j with
  | false => simp [hj]
  | true =>
    have hlt : j < 29 := BitVec.lt_of_getLsbD hj
    simp [hj, Nat.lt_trans hlt]

theorem identWord_toNat (i : ExtId) (e : Bool) : (identWord i e false).toNat = i.toNat + if e then 2 ^ 31 else 0 := by
  have hbit : (i.zeroExtend 32).getLsbD 31 = false := by simp
  rw [identWord_eq, or_wordFlag_toNat (by decide) hbit, BitVec.zeroExtend, BitVec.toNat_setWidth_of_le (by decide)]

/-- An identifier given as a number (R168). -/
theorem identWord_ofNat {id : Nat} (h : id < 2 ^ 29) (e : Bool) :
    identWord (BitVec.ofNat 29 id) e false = BitVec.ofNat 32 id ||| wordFlag e Config.extFlagBit := by
  rw [identWord_eq]
  congr 1
  apply BitVec.eq_of_toNat_eq
  simp (disch := omega) [Nat.mod_eq_of_lt]

/-- R172: bit 31 is the format flag. -/
theorem identWord_getLsbD_extFlag (i : ExtId) (e : Bool) : (identWord i e false).getLsbD Config.extFlagBit = e := by
  rw [identWord_getLsbD, BitVec.getLsbD_of_ge i _ (by decide), Bool.false_or, decide_eq_true rfl, Bool.and_true]

/-- R172: bits 30 and 29 are 0. -/
theorem identWord_getLsbD_between (i : ExtId) (e : Bool) {j : Nat} (hlow : 29 ≤ j) (hhigh : j < 31) :
    (identWord i e false).getLsbD j = false := by
  have hne : j ≠ Config.extFlagBit := Nat.ne_of_lt hhigh
  simp [identWord_getLsbD, BitVec.getLsbD_of_ge i j hlow, hne]

/-- R172: the low bits are the identifier. -/
theorem identWord_extractLsb' (i : ExtId) (e : Bool) : (identWord i e false).extractLsb' 0 29 = i := by
  apply BitVec.eq_of_getLsbD_eq
  intro j hj
  have hne : j ≠ 31 := by omega
  simp [identWord_getLsbD, hj, hne]

/-- APPLYRTR ORs the control byte's flag into the word (R160). -/
theorem applyRtr_eq (w : IdWord) (ctrl : Byte) : applyRtr w ctrl = w ||| wordFlag (ctrlRtr ctrl) Config.rtrFlagBit := by
  cases h : ctrlRtr ctrl <;> simp [applyRtr, wordFlag, h]

theorem applyRtr_getLsbD (w : IdWord) (ctrl : Byte) (j : Nat) :
    (applyRtr w ctrl).getLsbD j = (w.getLsbD j || (ctrlRtr ctrl && decide (j = Config.rtrFlagBit))) := by
  rw [applyRtr_eq, BitVec.getLsbD_or, wordFlag_getLsbD _ (by decide)]

/-- R172: the flag is ORed in once. -/
theorem applyRtr_applyRtr (w : IdWord) (ctrl : Byte) : applyRtr (applyRtr w ctrl) ctrl = applyRtr w ctrl := by
  simp only [applyRtr_eq, BitVec.or_assoc, BitVec.or_self]

/-! ### Header bytes of identifiers -/

/-- An extended identifier is the sum of its fields. -/
theorem fields_sum_of_extended {id : Nat} (h : id < 2 ^ 29) :
    (id / 2 ^ 21 % 2 ^ 8 * 8 + id / 2 ^ 18 % 8) * 2 ^ 18 + id / 2 ^ 16 % 4 * 2 ^ 16 + id / 2 ^ 8 % 2 ^ 8 * 2 ^ 8 +
      id % 2 ^ 8 = id := by
  have h21 : id / 2 ^ 18 / 8 = id / 2 ^ 21 := Nat.div_div_eq_div_mul ..
  have h18 : id / 2 ^ 16 / 4 = id / 2 ^ 18 := Nat.div_div_eq_div_mul ..
  have h16 : id / 2 ^ 8 / 2 ^ 8 = id / 2 ^ 16 := Nat.div_div_eq_div_mul ..
  omega

/-- The fields of an extended identifier are those it was put together from. -/
theorem fields_of_extended {a upper lower c d x : Nat} (hupper : upper < 8) (hlower : lower < 4) (hc : c < 2 ^ 8)
    (hd : d < 2 ^ 8) (hx : x = (a * 8 + upper) * 2 ^ 18 + lower * 2 ^ 16 + c * 2 ^ 8 + d) :
    x / 2 ^ 21 = a ∧ x / 2 ^ 18 % 8 = upper ∧ x / 2 ^ 16 % 4 = lower ∧ x / 2 ^ 8 % 2 ^ 8 = c ∧ x % 2 ^ 8 = d := by
  omega

/-- R94 in numbers, of a standard identifier. -/
theorem encodeStd_eq (id : Nat) :
    encodeStd id = [BitVec.ofNat 8 (id / 8), BitVec.ofNat 8 (id % 8 * 32), 0x00, 0x00] := by
  have hlow : id &&& 0x7 = id % 8 := Nat.and_two_pow_sub_one_eq_mod id 3
  have hshift : BitVec.ofNat 8 (id % 8) <<< 5 = BitVec.ofNat 8 (id % 8 * 32) := by
    apply BitVec.eq_of_toNat_eq
    simp [Nat.shiftLeft_eq]
  rw [encodeStd, Nat.shiftRight_eq_div_pow, hlow, hshift]

/-- R94 in numbers, of an extended identifier. -/
theorem encodeExt_eq (id : Nat) : encodeExt id = [BitVec.ofNat 8 (id / 2 ^ 21),
    BitVec.ofNat 8 (id / 2 ^ 18 % 8 * 32 + 8 + id / 2 ^ 16 % 4),
    BitVec.ofNat 8 (id / 2 ^ 8), BitVec.ofNat 8 id] := by
  have hupper : id >>> 18 &&& 0x7 = id / 2 ^ 18 % 8 := by
    rw [Nat.shiftRight_eq_div_pow]
    exact Nat.and_two_pow_sub_one_eq_mod _ 3
  have hlower : id >>> 16 &&& 0x3 = id / 2 ^ 16 % 4 := by
    rw [Nat.shiftRight_eq_div_pow]
    exact Nat.and_two_pow_sub_one_eq_mod _ 2
  rw [encodeExt, hupper, hlower, extendedByteOne_eq _ (by omega) _ (by omega), Nat.shiftRight_eq_div_pow,
    Nat.shiftRight_eq_div_pow]

/-! ### The operations -/

/-- DECID of a whole header (R152). -/
theorem exec_decid (h0 h1 h2 h3 h4 : Byte) (s : State) : exec (.decid [h0, h1, h2, h3, h4]) s =
    .next (afterValue s (.ident (headerId h0 h1 h2 h3) (headerExt h1)
      (identWord (headerId h0 h1 h2 h3) (headerExt h1) false))) := rfl

theorem exec_declen (b : Byte) (s : State) : exec (.declen b) s = .next (afterValue s (.len (lengthField b))) := rfl

theorem exec_chklen_of_le {len : Byte} (h : len.toNat ≤ 8) (s : State) :
    exec (.chklen len) s = .next (afterValue s (.len (len.truncate 4))) := by
  have hfield : ¬ 15 < len.toNat := by omega
  have hmax : ¬ Config.maxLen < len.toNat := Nat.not_lt.2 h
  simp only [exec, execChklen, if_neg hfield, if_neg hmax]
  rfl

theorem exec_chklen_of_gt {len : Byte} (h : 8 < len.toNat) (hfield : len.toNat ≤ 15) (s : State) :
    exec (.chklen len) s = .next { s with result := some (.error .malformed) } := by
  have hmax : Config.maxLen < len.toNat := h
  simp only [exec, execChklen, if_neg (Nat.not_lt.2 hfield), if_pos hmax]
  rfl

/-- R172: a length of four bits is Malformed exactly when it exceeds 8. -/
theorem exec_chklen_malformed_iff {len : Byte} (hfield : len.toNat ≤ 15) (s : State) :
    exec (.chklen len) s = .next { s with result := some (.error .malformed) } ↔ 8 < len.toNat := by
  refine ⟨fun hexec => ?_, fun h => exec_chklen_of_gt h hfield s⟩
  by_contra hle
  rw [exec_chklen_of_le (Nat.not_lt.1 hle)] at hexec
  simp [afterValue] at hexec

theorem exec_applyrtr (w : IdWord) (ctrl : Byte) (s : State) :
    exec (.applyrtr w ctrl) s = .next (afterValue s (.word (applyRtr w ctrl))) := rfl

theorem exec_encidStd_of_lt {id : Nat} (h : id < 2 ^ 11) (s : State) :
    exec (.encidStd id) s = .next (afterValue s (.bytes (encodeStd id))) := by
  simp only [exec, execEncidStd, if_neg (Nat.not_le.2 h)]
  rfl

theorem exec_encidExt_of_lt {id : Nat} (h : id < 2 ^ 29) (s : State) :
    exec (.encidExt id) s = .next (afterValue s (.bytes (encodeExt id))) := by
  simp only [exec, execEncidExt, if_neg (Nat.not_le.2 h)]
  rfl

theorem exec_encidStd_of_ge {id : Nat} (h : 2 ^ 11 ≤ id) (s : State) :
    exec (.encidStd id) s = .next (afterRefusal s .idOutOfRange) :=
  exec_of_refusalOf (i := .encidStd id) (if_pos h) s

theorem exec_encidExt_of_ge {id : Nat} (h : 2 ^ 29 ≤ id) (s : State) :
    exec (.encidExt id) s = .next (afterRefusal s .idOutOfRange) :=
  exec_of_refusalOf (i := .encidExt id) (if_pos h) s

/-- A word with a flag is no identifier (R166). -/
theorem le_toNat_of_flag {w : IdWord}
    (h : w.getLsbD Config.extFlagBit = true ∨ w.getLsbD Config.rtrFlagBit = true) : 2 ^ 30 ≤ w.toNat := by
  rcases h with hext | hrtr
  · have : 2 ^ 31 ≤ w.toNat := Nat.ge_two_pow_of_testBit hext
    omega
  · exact Nat.ge_two_pow_of_testBit hrtr

/-! ### Encoding and decoding -/

/-- R168: DECID reads a standard identifier back from its header bytes. -/
theorem exec_decid_encodeStd {id : Nat} (h : id < 2 ^ 11) (x : Byte) (s : State) :
    exec (.decid (encodeStd id ++ [x])) s =
      .next (afterValue s (.ident (BitVec.ofNat 29 id) false (BitVec.ofNat 32 id))) := by
  have hext : headerExt (BitVec.ofNat 8 (id % 8 * 32)) = false := by
    rw [headerExt_eq, BitVec.toNat_ofNat]
    exact decide_eq_false (by omega)
  have hid : headerId (BitVec.ofNat 8 (id / 8)) (BitVec.ofNat 8 (id % 8 * 32)) 0 0 = BitVec.ofNat 29 id := by
    apply BitVec.eq_of_toNat_eq
    simp only [headerId_toNat_of_standard hext, BitVec.toNat_ofNat]
    omega
  have hword : identWord (BitVec.ofNat 29 id) false false = BitVec.ofNat 32 id :=
    (identWord_ofNat (by omega) false).trans BitVec.or_zero
  rw [encodeStd_eq]
  refine (exec_decid _ _ _ _ x s).trans ?_
  rw [hext, hid, hword]

/-- R168: DECID reads an extended identifier back from its header bytes. -/
theorem exec_decid_encodeExt {id : Nat} (h : id < 2 ^ 29) (x : Byte) (s : State) :
    exec (.decid (encodeExt id ++ [x])) s =
      .next (afterValue s (.ident (BitVec.ofNat 29 id) true (BitVec.ofNat 32 id ||| 0x80000000))) := by
  obtain ⟨hext, hupper, hlower⟩ := extendedByteOne_fields (id / 2 ^ 18 % 8) (by omega) (id / 2 ^ 16 % 4) (by omega)
  have hid : headerId (BitVec.ofNat 8 (id / 2 ^ 21)) (BitVec.ofNat 8 (id / 2 ^ 18 % 8 * 32 + 8 + id / 2 ^ 16 % 4))
      (BitVec.ofNat 8 (id / 2 ^ 8)) (BitVec.ofNat 8 id) = BitVec.ofNat 29 id := by
    apply BitVec.eq_of_toNat_eq
    rw [headerId_toNat_of_extended hext, hupper, hlower]
    exact (fields_sum_of_extended h).trans (Nat.mod_eq_of_lt h).symm
  have hword : identWord (BitVec.ofNat 29 id) true false = BitVec.ofNat 32 id ||| 0x80000000 := identWord_ofNat h true
  rw [encodeExt_eq]
  refine (exec_decid _ _ _ _ x s).trans ?_
  rw [hext, hid, hword]

/-- R170: the header bytes of a standard header's identifier. -/
theorem encodeStd_headerId {h1 : Byte} (h : headerExt h1 = false) (h0 h2 h3 : Byte) :
    encodeStd (headerId h0 h1 h2 h3).toNat = [h0, h1 &&& 0xE0, 0x00, 0x00] := by
  rw [encodeStd_eq, headerId_toNat_of_standard h, and_standardMask_eq]
  have hupper : (h0.toNat * 8 + h1.toNat / 32) / 8 = h0.toNat := by omega
  have hlower : (h0.toNat * 8 + h1.toNat / 32) % 8 = h1.toNat / 32 := by omega
  rw [hupper, hlower, BitVec.ofNat_toNat, BitVec.setWidth_eq]

/-- R170: the header bytes of an extended header's identifier. -/
theorem encodeExt_headerId {h1 : Byte} (h : headerExt h1 = true) (h0 h2 h3 : Byte) :
    encodeExt (headerId h0 h1 h2 h3).toNat = [h0, (h1 &&& 0xE3) ||| 0x08, h2, h3] := by
  obtain ⟨hE0, hupper, hlower, hE2, hE3⟩ := fields_of_extended (by omega) (by omega) h2.isLt h3.isLt
    (headerId_toNat_of_extended h h0 h2 h3)
  have hE2 : BitVec.ofNat 8 ((headerId h0 h1 h2 h3).toNat / 2 ^ 8) = h2 := BitVec.eq_of_toNat_eq hE2
  have hE3 : BitVec.ofNat 8 (headerId h0 h1 h2 h3).toNat = h3 := BitVec.eq_of_toNat_eq hE3
  rw [encodeExt_eq, hE0, hupper, hlower, hE2, hE3, and_extendedMask_or_ide_eq, BitVec.ofNat_toNat, BitVec.setWidth_eq]

/-! ### The obligations -/

/-- Settles O20: the header's identifier and the word of DECID, both as numbers. -/
theorem decidGivesTheIdentifierOfItsFormat : Obligations.DecidGivesTheIdentifierOfItsFormat := by
  unfold Obligations.DecidGivesTheIdentifierOfItsFormat
  intro h0 h1 h2 h3 h4
  refine ⟨rfl, headerId h0 h1 h2 h3, identWord (headerId h0 h1 h2 h3) (headerExt h1) false, exec_decid h0 h1 h2 h3 h4,
    fun (hstd : headerExt h1 = false) => ⟨headerId_toNat_of_standard hstd h0 h2 h3, ?_⟩,
    fun (hext : headerExt h1 = true) => ⟨headerId_toNat_of_extended hext h0 h2 h3, ?_⟩⟩
  · rw [identWord_toNat, hstd]; rfl
  · rw [identWord_toNat, hext]; rfl

/-- Settles O21: what DECID gives is determined by the header's identifier and format flag, and these read only
the named bits. -/
theorem decidReadsOnlyTheNamedBits : Obligations.DecidReadsOnlyTheNamedBits := by
  unfold Obligations.DecidReadsOnlyTheNamedBits
  intro s t t' h0 h1 h2 h3 h4 g1 g2 g3 g4 hupper hextended ht ht'
  have hext : headerExt h1 = headerExt g1 := by
    rw [← headerExt_and_readMask, hupper, headerExt_and_readMask]
  have hid : headerId h0 h1 h2 h3 = headerId h0 g1 g2 g3 := by
    cases hflag : headerExt h1 with
    | false =>
      rw [headerId_of_standard hflag, headerId_of_standard (hext ▸ hflag), stdId_congr hupper]
    | true =>
      obtain ⟨hlower, rfl, rfl⟩ := hextended hflag
      rw [headerId_of_extended hflag, headerId_of_extended (hext ▸ hflag), extId_congr hupper hlower]
  rw [exec_decid, hid, hext, ← exec_decid h0 g1 g2 g3 g4, ht'] at ht
  exact (Host.Outcome.next.inj ht).symm

/-- Settles O25: APPLYRTR ORs the control byte's flag in, and an OR is bit by bit. -/
theorem applyRtrSetsOnlyTheRemoteRequestFlag : Obligations.ApplyRtrSetsOnlyTheRemoteRequestFlag := by
  unfold Obligations.ApplyRtrSetsOnlyTheRemoteRequestFlag
  intro w ctrl
  refine ⟨rfl, applyRtr w ctrl, exec_applyrtr w ctrl, fun j hj => ?_, ?_⟩
  · simp [applyRtr_getLsbD, hj]
  · simp [applyRtr_getLsbD, ctrlRtr]

/-- Settles O26: the layout in numbers within the range, and the refusal outside it. -/
theorem encidStandardLayout : Obligations.EncidStandardLayout := by
  unfold Obligations.EncidStandardLayout
  refine fun id s => ⟨rfl, fun h => ?_, fun h => exec_encidStd_of_ge h s⟩
  rw [exec_encidStd_of_lt h, encodeStd_eq]

/-- Settles O27: the layout in numbers within the range, and the refusal outside it. -/
theorem encidExtendedLayout : Obligations.EncidExtendedLayout := by
  unfold Obligations.EncidExtendedLayout
  refine fun id s => ⟨rfl, fun h => ?_, fun h => exec_encidExt_of_ge h s⟩
  rw [exec_encidExt_of_lt h, encodeExt_eq]
  rfl

/-- Settles O28: a word with a flag is out of both ranges. -/
theorem encidRefusesWideAndFlaggedIdentifiers : Obligations.EncidRefusesWideAndFlaggedIdentifiers := by
  unfold Obligations.EncidRefusesWideAndFlaggedIdentifiers
  refine fun s => ⟨fun _ h => exec_encidStd_of_ge h s, fun _ h => exec_encidExt_of_ge h s, fun w hflag => ?_⟩
  have hwide : 2 ^ 30 ≤ w.toNat := le_toNat_of_flag hflag
  exact ⟨exec_encidStd_of_ge (by omega) s, exec_encidExt_of_ge (by omega) s⟩

/-- Settles O29: the encoder's bytes, and the decoder on them. -/
theorem identifiersSurviveEncodingAndDecoding : Obligations.IdentifiersSurviveEncodingAndDecoding := by
  unfold Obligations.IdentifiersSurviveEncodingAndDecoding
  exact fun id x s => ⟨fun h => ⟨encodeStd id, exec_encidStd_of_lt h s, exec_decid_encodeStd h x s⟩,
    fun h => ⟨encodeExt id, exec_encidExt_of_lt h s, exec_decid_encodeExt h x s⟩⟩

/-- Settles O30: the identifier is in its format's range, and its bytes are the header's but for the unread bits. -/
theorem reencodingADecodedHeaderGivesItsCanonicalForm : Obligations.ReencodingADecodedHeaderGivesItsCanonicalForm := by
  unfold Obligations.ReencodingADecodedHeaderGivesItsCanonicalForm
  intro h0 h1 h2 h3 h4 s i e w hexec
  rw [exec_decid] at hexec
  obtain ⟨hi, he, -⟩ : headerId h0 h1 h2 h3 = i ∧ headerExt h1 = e ∧ _ := by
    simpa [afterValue] using hexec
  subst hi
  refine ⟨fun hstd => ?_, fun hext => ?_⟩
  · have hformat : headerExt h1 = false := he.trans hstd
    rw [exec_encidStd_of_lt (headerId_lt_of_standard hformat h0 h2 h3), encodeStd_headerId hformat]
  · rw [exec_encidExt_of_lt (headerId h0 h1 h2 h3).isLt, encodeExt_headerId (he.trans hext)]

/-- Settles O31: a length field is below 16, a flag ORed in twice is ORed in once, and the word is read bit by bit. -/
theorem furtherCodecLaws : Obligations.FurtherCodecLaws := by
  unfold Obligations.FurtherCodecLaws
  refine fun s => ⟨fun b => ⟨lengthField b, lengthField_zeroExtend b, exec_declen b s, ?_⟩,
    fun w ctrl => ⟨applyRtr w ctrl, exec_applyrtr w ctrl s, ?_⟩,
    fun h0 h1 h2 h3 h4 => ⟨_, _, _, exec_decid h0 h1 h2 h3 h4 s,
      identWord_getLsbD_between _ _ (by decide) (by decide), identWord_getLsbD_between _ _ (by decide) (by decide),
      identWord_extractLsb' _ _, identWord_getLsbD_extFlag _ _⟩⟩
  · have hfield : (b &&& 0x0F).toNat ≤ 15 := Nat.and_le_right
    rw [lengthField_zeroExtend]
    exact exec_chklen_malformed_iff hfield s
  · rw [exec_applyrtr, applyRtr_applyRtr]

/-- Settles O32: each flag is ORed in at a bit that is still 0, so it adds that bit's weight. -/
theorem identifierWordHoldsIdentifierAndFlags : Obligations.IdentifierWordHoldsIdentifierAndFlags := by
  unfold Obligations.IdentifierWordHoldsIdentifierAndFlags
  intro s h0 h1 h2 h3 h4 ctrl
  refine ⟨_, _, _, _, exec_decid h0 h1 h2 h3 h4 s, exec_applyrtr _ ctrl s,
    fun hstd => headerId_lt_of_standard hstd h0 h2 h3, ?_, ?_⟩
  · rw [applyRtr_getLsbD, identWord_getLsbD_between _ _ (by decide) (by decide)]
    exact Bool.and_false _
  · have hrtr : (identWord (headerId h0 h1 h2 h3) (headerExt h1) false).getLsbD Config.rtrFlagBit = false :=
      identWord_getLsbD_between _ _ (by decide) (by decide)
    rw [applyRtr_eq, or_wordFlag_toNat (by decide) hrtr, identWord_toNat]
    rfl

/-- Settles O23: the length field, as a number and as a masked byte. -/
theorem declenGivesTheLowFourBits : Obligations.DeclenGivesTheLowFourBits := by
  unfold Obligations.DeclenGivesTheLowFourBits
  exact fun b => ⟨rfl, lengthField b, lengthField_toNat b, lengthField_zeroExtend b, exec_declen b⟩

/-- Settles O24: a length up to 8 fits its four bits, and one of 9 to 15 is over MAX_LEN. -/
theorem chklenAcceptsLengthsUpToEight : Obligations.ChklenAcceptsLengthsUpToEight := by
  unfold Obligations.ChklenAcceptsLengthsUpToEight
  refine fun len => ⟨rfl, fun s => ⟨fun h => ⟨len.truncate 4, ?_, exec_chklen_of_le h s⟩,
    fun hlow hfield => exec_chklen_of_gt hlow hfield s⟩⟩
  rw [BitVec.truncate, BitVec.toNat_setWidth]
  omega

end Sys2Proof.Machine

/-! Proofs for 42_host_sequences. What one operation of a sequence leaves is an equation for each operation
(`perform_rdstat`, `perform_decid` and so on); a sequence is then rewritten operation by operation. What a sequence adds to
the log and leaves of the coming answers is `SeqRun.Performs`, and what it may send at all is `SeqRun.SendsOnly`. -/

namespace Sys2Proof.Machine

/-! ### Commands as exchanges -/

theorem exec_reset (s : State) :
    exec .reset s = command fReset (fun _ => Chip.unknown s.draws) (fun _ => .unit) s := rfl

theorem exec_rdstat (s : State) :
    exec .rdstat s = command fReadStatus id (fun rx => .byte (replyByte 1 rx)) s := rfl

theorem exec_read1 (addr : Byte) (s : State) :
    exec (.read1 addr) s = command (fRead addr 1) (fun c => c.readPast addr 1) (fun rx => .byte (replyByte 2 rx)) s := rfl

theorem exec_bitmod (addr mask data : Byte) (s : State) : exec (.bitmod addr mask data) s =
    command (fBitmod addr mask data) (fun c => c.bitModify addr mask data) (fun _ => .unit) s := rfl

/-! ### One operation of a sequence -/

section Operations

variable {α : Type} {f : Value → Option α} {i : Instr} {s : State} {rest : List Reply}

/-- A command of a sequence whose answer stands in State with the right length (R112). -/
theorem perform_answered {tx rx : List Byte} {effect : Chip → Chip} {value : List Byte → Value} {a : α}
    (hexec : exec i s.countStep = command tx effect value s.countStep) (hrep : s.replies = .bytes rx :: rest)
    (hlen : rx.length = tx.length) (hvalue : f (value rx) = some a) :
    perform f i s = ⟨afterExchange s.countStep tx rx rest (effect s.chip) (value rx), .value a⟩ := by
  rw [perform_of_exec (hexec.trans (command_answered effect value hrep hlen))]
  simp [afterExchange, portValue, hvalue]

/-- An operation of a sequence that sends and whose coming answer fails ends the sequence (R190, R231). -/
theorem perform_failed {r : Reply} (hs : sends i = true) (hrep : s.replies = r :: rest) (hfail : failsOn (encode i) r) :
    ∃ c, perform f i s = ⟨afterFailure s.countStep (encode i) rest c, .ended (.error .transportFailure)⟩ := by
  obtain ⟨c, hexec⟩ := failedExchangeLeavesOnlyItsLogEntryAndTheFaultMark i s.countStep r rest hs hrep hfail
  exact ⟨c, perform_of_exec hexec⟩

/-- An operation of a sequence that gives a value without an exchange. -/
theorem perform_value {v : Value} {a : α} (hexec : exec i s.countStep = .next (afterValue s.countStep v))
    (hvalue : f v = some a) : perform f i s = ⟨afterValue s.countStep v, .value a⟩ := by
  rw [perform_of_exec hexec]
  simp [afterValue, portValue, hvalue]

theorem perform_rdstat {x st : Byte} (hrep : s.replies = .bytes [x, st] :: rest) :
    perform asByte .rdstat s = ⟨afterExchange s.countStep fReadStatus [x, st] rest s.chip (.byte st), .value st⟩ :=
  perform_answered (exec_rdstat _) hrep rfl rfl

theorem perform_read1 (addr : Byte) {x y b : Byte} (hrep : s.replies = .bytes [x, y, b] :: rest) :
    perform asByte (.read1 addr) s =
      ⟨afterExchange s.countStep (fRead addr 1) [x, y, b] rest (s.chip.readPast addr 1) (.byte b), .value b⟩ :=
  perform_answered (exec_read1 addr _) hrep rfl rfl

theorem perform_read (addr : Byte) {x y : Byte} {data : List Byte} (hmax : data.length ≤ Config.maxData)
    (hrep : s.replies = .bytes (x :: y :: data) :: rest) :
    perform asBytes (.read addr data.length) s =
      ⟨afterExchange s.countStep (fRead addr data.length) (x :: y :: data) rest (s.chip.readPast addr data.length)
        (.bytes data), .value data⟩ := by
  have hslice : replySlice data.length (x :: y :: data) = data := List.take_length
  have hlen : (x :: y :: data).length = (fRead addr data.length).length := by simp [fRead]
  have h := perform_answered (f := asBytes) (a := data) (exec_read_of_admitted addr (countOutOfRange_natCast hmax) _)
    hrep hlen (congrArg some hslice)
  rwa [Int.toNat_natCast, hslice] at h

theorem perform_write1 (addr value : Byte) {rx : List Byte} (hrep : s.replies = .bytes rx :: rest) (hlen : rx.length = 3) :
    perform asUnit (.write1 addr value) s =
      ⟨afterExchange s.countStep (fWrite addr [value]) rx rest (s.chip.write addr [value]) .unit, .value ()⟩ :=
  perform_answered (exec_of_write_or_write1 (.inr ⟨value, rfl, rfl⟩) _) hrep hlen rfl

theorem perform_write (addr : Byte) {values rx : List Byte} (hadmitted : writeRefusal values = none)
    (hrep : s.replies = .bytes rx :: rest) (hlen : rx.length = 2 + values.length) :
    perform asUnit (.write addr values) s =
      ⟨afterExchange s.countStep (fWrite addr values) rx rest (s.chip.write addr values) .unit, .value ()⟩ := by
  have hwhole : rx.length = (fWrite addr values).length := by
    simp only [fWrite, List.length_cons]
    omega
  exact perform_answered (exec_write_of_admitted addr hadmitted _) hrep hwhole rfl

theorem perform_bitmod (addr mask data : Byte) {rx : List Byte} (hrep : s.replies = .bytes rx :: rest)
    (hlen : rx.length = 4) :
    perform asUnit (.bitmod addr mask data) s =
      ⟨afterExchange s.countStep (fBitmod addr mask data) rx rest (s.chip.bitModify addr mask data) .unit, .value ()⟩ :=
  perform_answered (exec_bitmod addr mask data _) hrep hlen rfl

theorem perform_decid (h0 h1 h2 h3 h4 : Byte) (s : State) :
    perform asIdent (.decid [h0, h1, h2, h3, h4]) s =
      ⟨afterValue s.countStep (.ident (headerId h0 h1 h2 h3) (headerExt h1)
          (identWord (headerId h0 h1 h2 h3) (headerExt h1) false)),
        .value (headerId h0 h1 h2 h3, headerExt h1, identWord (headerId h0 h1 h2 h3) (headerExt h1) false)⟩ :=
  perform_value (exec_decid h0 h1 h2 h3 h4 _) rfl

theorem perform_declen (b : Byte) (s : State) :
    perform asLen (.declen b) s = ⟨afterValue s.countStep (.len (lengthField b)), .value (lengthField b)⟩ :=
  perform_value (exec_declen b _) rfl

theorem perform_chklen_of_le {n : BitVec 4} (h : n.toNat ≤ 8) (s : State) :
    perform asLen (.chklen (n.zeroExtend 8)) s = ⟨afterValue s.countStep (.len n), .value n⟩ := by
  have hn : (n.zeroExtend 8).truncate 4 = n := BitVec.setWidth_setWidth_of_le n (by decide) |>.trans n.setWidth_eq
  have hle : (n.zeroExtend 8).toNat ≤ 8 := by rwa [BitVec.zeroExtend, BitVec.toNat_setWidth_of_le (by decide)]
  have hexec := exec_chklen_of_le hle s.countStep
  rw [hn] at hexec
  exact perform_value hexec rfl

/-- R196: a length above 8 ends the sequence. -/
theorem perform_chklen_of_gt {n : BitVec 4} (h : 8 < n.toNat) (s : State) :
    perform asLen (.chklen (n.zeroExtend 8)) s =
      ⟨{ s.countStep with result := some (.error .malformed) }, .ended (.error .malformed)⟩ := by
  have hn : (n.zeroExtend 8).toNat = n.toNat := BitVec.toNat_setWidth_of_le (by decide)
  exact perform_of_exec (exec_chklen_of_gt (by omega) (by omega) _)

theorem perform_applyrtr (w : IdWord) (ctrl : Byte) (s : State) :
    perform asWord (.applyrtr w ctrl) s =
      ⟨afterValue s.countStep (.word (applyRtr w ctrl)), .value (applyRtr w ctrl)⟩ :=
  perform_value (exec_applyrtr w ctrl _) rfl

end Operations

/-! ### What an operation leaves of the answers and the log -/

@[simp] theorem afterExchange_replies (s : State) (tx rx : List Byte) (rest : List Reply) (c : Chip) (v : Value) :
    (afterExchange s tx rx rest c v).replies = rest := rfl
@[simp] theorem afterValue_log (s : State) (v : Value) : (afterValue s v).log = s.log := rfl

/-! ### What a sequence performs -/

/-- The run r, begun in s, performs exactly the exchanges es, leaves the answers rest and ends at o. -/
structure SeqRun.Performs {α : Type} (s : State) (es : List Exchange) (rest : List Reply) (o : SeqOut α) (r : SeqRun α) :
    Prop where
  log : r.state.log = s.log ++ es
  replies : r.state.replies = rest
  out : r.out = o

/-- Every exchange that the run r, begun in s, adds to the log sends bytes of which P holds. -/
def SeqRun.SendsOnly {α : Type} (P : List Byte → Prop) (s : State) (r : SeqRun α) : Prop :=
  ∃ es : List Exchange, r.state.log = s.log ++ es ∧ ∀ e ∈ es, P e.tx

section Runs

variable {α β : Type} {s : State} {es es' : List Exchange} {rest rest' : List Reply} {o : SeqOut α} {r : SeqRun α}

theorem SeqRun.andThen_of_value {a : α} (h : r.out = .value a) (f : α → State → SeqRun β) :
    r.andThen f = f a r.state := by
  simp only [SeqRun.andThen, h]

/-- A sequence stays at an end it has reached (R190). -/
theorem SeqRun.andThen_of_ne_value (h : ∀ a, r.out ≠ .value a) (f : α → State → SeqRun α) : r.andThen f = r := by
  obtain ⟨st, out⟩ := r
  cases out with
  | value a => exact absurd rfl (h a)
  | ended | noOutcome => rfl

/-- Going on with what leaves the state leaves the state. -/
theorem SeqRun.andThen_state {f : α → State → SeqRun β} (hf : ∀ a t, (f a t).state = t) :
    (r.andThen f).state = r.state := by
  obtain ⟨st, out⟩ := r
  cases out with
  | value a => exact hf a st
  | ended | noOutcome => rfl

theorem SeqRun.Performs.pure (o : SeqOut α) (h : s.replies = rest) : SeqRun.Performs s [] rest o ⟨s, o⟩ :=
  ⟨(List.append_nil _).symm, h, rfl⟩

/-- A run that goes on after an exchange performs that exchange first. -/
theorem SeqRun.Performs.after_exchange {tx rx : List Byte} {c : Chip} {v : Value}
    (h : SeqRun.Performs (afterExchange s.countStep tx rx rest' c v) es rest o r) :
    SeqRun.Performs s (⟨tx, .bytes rx⟩ :: es) rest o r :=
  ⟨h.log.trans (List.append_assoc ..), h.replies, h.out⟩

/-- A run that goes on after a codec operation performs what follows. -/
theorem SeqRun.Performs.after_value {v : Value} (h : SeqRun.Performs (afterValue s.countStep v) es rest o r) :
    SeqRun.Performs s es rest o r := ⟨h.log, h.replies, h.out⟩

theorem SeqRun.Performs.andThen {a : α} {f : α → State → SeqRun β} {o : SeqOut β}
    (h : SeqRun.Performs s es rest (.value a) r)
    (hf : ∀ t, t.replies = rest → SeqRun.Performs t es' rest' o (f a t)) :
    SeqRun.Performs s (es ++ es') rest' o (r.andThen f) := by
  obtain ⟨hlog, hreplies, hout⟩ := hf r.state h.replies
  rw [SeqRun.andThen_of_value h.out]
  exact ⟨by rw [hlog, h.log, List.append_assoc], hreplies, hout⟩

variable {P : List Byte → Prop}

theorem sendsOnly_pure (o : SeqOut α) : SeqRun.SendsOnly P s ⟨s, o⟩ := ⟨[], by simp, by simp⟩

/-- An operation of a sequence sends its own words or nothing (R110). -/
theorem sendsOnly_perform {f : Value → Option α} {i : Instr} (h : P (encode i)) :
    SeqRun.SendsOnly P s (perform f i s) := by
  cases hs : sends i with
  | true =>
    obtain ⟨r, hlog⟩ := perform_log_of_sends f hs s
    exact ⟨_, hlog, by simpa using h⟩
  | false =>
    obtain ⟨t, hexec, q⟩ := exec_of_not_sends hs s.countStep
    rw [perform_of_exec hexec]
    refine ⟨[], ?_, by simp⟩
    cases q <;> simp

/-- Begun where a run ends, going on sends only what the continuation sends. -/
theorem sendsOnly_of_continuation {f : α → State → SeqRun β} (hf : ∀ a t, SeqRun.SendsOnly P t (f a t)) :
    SeqRun.SendsOnly P r.state (r.andThen f) := by
  obtain ⟨st, out⟩ := r
  cases out with
  | value a => exact hf a st
  | ended | noOutcome => exact sendsOnly_pure _

theorem sendsOnly_andThen {f : α → State → SeqRun β} (h : SeqRun.SendsOnly P s r)
    (hf : ∀ a t, SeqRun.SendsOnly P t (f a t)) : SeqRun.SendsOnly P s (r.andThen f) := by
  obtain ⟨es, hlog, hall⟩ := h
  obtain ⟨es', hlog', hall'⟩ := sendsOnly_of_continuation (r := r) hf
  refine ⟨es ++ es', by rw [hlog', hlog, List.append_assoc], fun e he => ?_⟩
  rcases List.mem_append.1 he with he | he
  · exact hall e he
  · exact hall' e he

end Runs

/-! ### Receive -/

/-- Buffer 0 when its flag is set, else buffer 1 when its flag is set (R194). -/
theorem selectBuffer_of_flags {st : Byte} {b : Bool} (h0 : st.getLsbD 0 = !b) (h1 : b = true → st.getLsbD 1 = true) :
    selectBuffer st = some b := by
  rw [selectBuffer, statusRx0, statusRx1, h0]
  cases b with
  | false => rfl
  | true => rw [h1 rfl]; rfl

/-- No buffer when neither flag is set (R204). -/
theorem selectBuffer_of_no_flag {st : Byte} (h0 : st.getLsbD 0 = false) (h1 : st.getLsbD 1 = false) :
    selectBuffer st = none := by
  rw [selectBuffer, statusRx0, statusRx1, h0, h1]
  rfl

/-- The length field as a masked byte (R93, R156). -/
theorem lengthField_toNat_eq_and (b : Byte) : (lengthField b).toNat = (b &&& 0x0F).toNat := by
  rw [← lengthField_zeroExtend, BitVec.zeroExtend, BitVec.toNat_setWidth_of_le (by decide)]

section Receive

variable {skip : Bool} {s : State} {x st : Byte} {rest : List Reply} {b : Bool}

/-- After READ-STATUS `receive()` goes on with the chosen buffer (R192, R194). -/
theorem receive_of_flags (hrep : s.replies = .bytes [x, st] :: rest) (h0 : st.getLsbD 0 = !b)
    (h1 : b = true → st.getLsbD 1 = true) :
    receive skip s =
      receiveBuffer skip (bufferDesc b) (afterExchange s.countStep fReadStatus [x, st] rest s.chip (.byte st)) := by
  rw [receive, perform_rdstat hrep, SeqRun.andThen_value, selectBuffer_of_flags h0 h1]

/-- `receive()` performs READ-STATUS and then what it performs for the chosen buffer (R192, R194). -/
theorem receive_performs {es : List Exchange} {rest' : List Reply} {o : SeqOut Frame}
    (hrep : s.replies = .bytes [x, st] :: rest) (h0 : st.getLsbD 0 = !b) (h1 : b = true → st.getLsbD 1 = true)
    (hbuffer : ∀ t, t.replies = rest → SeqRun.Performs t es rest' o (receiveBuffer skip (bufferDesc b) t)) :
    SeqRun.Performs s (⟨fReadStatus, .bytes [x, st]⟩ :: es) rest' o (receive skip s) := by
  rw [receive_of_flags hrep h0 h1]
  exact .after_exchange (hbuffer _ rfl)

/-- The identifier word of a header and a control byte (R152, R160). -/
def receivedWord (h0 h1 h2 h3 ctrl : Byte) : IdWord :=
  applyRtr (identWord (headerId h0 h1 h2 h3) (headerExt h1) false) ctrl

/-- The identifier word as a number. -/
theorem receivedWord_toNat (h0 h1 h2 h3 ctrl : Byte) :
    (receivedWord h0 h1 h2 h3 ctrl).toNat = frameWordValue h0 h1 h2 h3 ctrl := by
  have hrtr : (identWord (headerId h0 h1 h2 h3) (headerExt h1) false).getLsbD Config.rtrFlagBit = false :=
    identWord_getLsbD_between _ _ (by decide) (by decide)
  rw [receivedWord, applyRtr_eq, or_wordFlag_toNat (by decide) hrtr, identWord_toNat, frameWordValue, ← headerExt]
  congr 1
  cases hext : headerExt h1 with
  | false => exact headerId_toNat_of_standard hext h0 h2 h3
  | true => exact congrArg (· + 2 ^ 31) (headerId_toNat_of_extended hext h0 h2 h3)

/-- Steps 3 and 4 of `receive()` up to the length check: the header READ and two codec operations, with the reference chip
as the READ leaves it (R192). -/
theorem receiveBuffer_header (skip : Bool) (d : BufferDesc) {y z h0 h1 h2 h3 h4 : Byte}
    (hrep : s.replies = .bytes [y, z, h0, h1, h2, h3, h4] :: rest) :
    ∃ t : State, receiveBuffer skip d s = (perform asLen (.chklen ((lengthField h4).zeroExtend 8)) t).andThen (fun len u =>
        receiveBody skip d (identWord (headerId h0 h1 h2 h3) (headerExt h1) false) len u) ∧
      t.replies = rest ∧ t.chip = s.chip.readPast d.sidh 5 ∧
      t.log = s.log ++ [⟨fRead d.sidh 5, .bytes [y, z, h0, h1, h2, h3, h4]⟩] := by
  have hmax : [h0, h1, h2, h3, h4].length ≤ Config.maxData := Nat.le_add_left 5 9
  have hread : perform asBytes (.read d.sidh Config.hdrLen) s = _ := perform_read d.sidh hmax hrep
  rw [receiveBuffer, hread, SeqRun.andThen_value, perform_decid, SeqRun.andThen_value, List.getD_cons_succ, perform_declen,
    SeqRun.andThen_value]
  exact ⟨_, rfl, rfl, rfl, rfl⟩

/-- R196: a length above 8 ends `receive()` after the header READ of the buffer. -/
theorem receiveBuffer_malformed (skip : Bool) (d : BufferDesc) {y z h0 h1 h2 h3 h4 : Byte}
    (hrep : s.replies = .bytes [y, z, h0, h1, h2, h3, h4] :: rest) (hlong : 8 < (lengthField h4).toNat) :
    ∃ t : State, receiveBuffer skip d s = ⟨t, .ended (.error .malformed)⟩ ∧ t.chip = s.chip.readPast d.sidh 5 ∧
      t.log = s.log ++ [⟨fRead d.sidh 5, .bytes [y, z, h0, h1, h2, h3, h4]⟩] := by
  obtain ⟨t, hrun, -, hchip, hlog⟩ := receiveBuffer_header skip d hrep
  rw [perform_chklen_of_gt hlong, SeqRun.andThen_ended] at hrun
  exact ⟨_, hrun, hchip, hlog⟩

/-- Steps 5 to 8 of `receive()`, around whatever the payload step performs (R198, R202). -/
theorem receiveBody_delivers {skip : Bool} {d : BufferDesc} {idw : IdWord} {len : BitVec 4} {u v ctrl : Byte}
    {ack payload : List Byte} {es : List Exchange} {later : List Reply} (hrep : s.replies = .bytes [u, v, ctrl] :: later)
    (hpayload : ∀ t, t.replies = later →
      SeqRun.Performs t es (.bytes ack :: rest) (.value payload) (readPayload skip d len t))
    (hack : ack.length = 4) :
    SeqRun.Performs s
      (⟨fRead d.ctrl 1, .bytes [u, v, ctrl]⟩ :: (es ++ [⟨fBitmod Config.canintf d.flag 0x00, .bytes ack⟩])) rest
      (.value ⟨applyRtr idw ctrl, len, payload⟩) (receiveBody skip d idw len s) := by
  rw [receiveBody, perform_read1 d.ctrl hrep, SeqRun.andThen_value, perform_applyrtr, SeqRun.andThen_value]
  refine .after_exchange (.after_value (.andThen (hpayload _ rfl) fun t ht => ?_))
  rw [clrFlag, perform_bitmod _ _ _ ht hack, SeqRun.andThen_value]
  exact .after_exchange (.pure _ rfl)

/-- The payload READ of as many bytes as the length says (R200). -/
theorem readPayload_reads {d : BufferDesc} {len : BitVec 4} {p q : Byte} {payload : List Byte}
    (hlen : payload.length = len.toNat) (hmax : len.toNat ≤ 8) (hread : payload ≠ [] ∨ skip = false)
    (hrep : s.replies = .bytes (p :: q :: payload) :: rest) :
    SeqRun.Performs s [⟨fRead d.data payload.length, .bytes (p :: q :: payload)⟩] rest (.value payload)
      (readPayload skip d len s) := by
  have hissued : ¬(len = 0 ∧ skip = true) := by
    rintro ⟨rfl, rfl⟩
    exact hread.elim (fun hne => hne (List.length_eq_zero_iff.1 hlen)) Bool.noConfusion
  have hadmitted : payload.length ≤ Config.maxData := Nat.le_trans (hlen ▸ hmax) (by decide)
  rw [readPayload, if_neg hissued, ← hlen, perform_read d.data hadmitted hrep]
  exact .after_exchange (.pure _ rfl)

/-- No payload READ for length 0 when `SKIP_EMPTY_READ` holds (R200). -/
theorem readPayload_skips {d : BufferDesc} {len : BitVec 4} (hlen : len = 0) (hrep : s.replies = rest) :
    SeqRun.Performs s [] rest (.value []) (readPayload true d len s) := by
  rw [readPayload, if_pos ⟨hlen, rfl⟩]
  exact .pure _ hrep

/-- Steps 3 to 8 of `receive()` of a good frame, around whatever the payload step performs (R192). -/
theorem receiveBuffer_delivers {d : BufferDesc} {y z h0 h1 h2 h3 h4 u v ctrl : Byte} {ack payload : List Byte}
    {es : List Exchange} {later : List Reply}
    (hrep : s.replies = .bytes [y, z, h0, h1, h2, h3, h4] :: .bytes [u, v, ctrl] :: later)
    (hgood : (lengthField h4).toNat ≤ 8)
    (hpayload : ∀ t, t.replies = later →
      SeqRun.Performs t es (.bytes ack :: rest) (.value payload) (readPayload skip d (lengthField h4) t))
    (hack : ack.length = 4) :
    SeqRun.Performs s
      (⟨fRead d.sidh 5, .bytes [y, z, h0, h1, h2, h3, h4]⟩ :: ⟨fRead d.ctrl 1, .bytes [u, v, ctrl]⟩ ::
        (es ++ [⟨fBitmod Config.canintf d.flag 0x00, .bytes ack⟩])) rest
      (.value ⟨receivedWord h0 h1 h2 h3 ctrl, lengthField h4, payload⟩) (receiveBuffer skip d s) := by
  obtain ⟨t, hrun, hlater, -, hlog⟩ := receiveBuffer_header skip d hrep
  have hbody := receiveBody_delivers (idw := identWord (headerId h0 h1 h2 h3) (headerExt h1) false)
    (s := afterValue t.countStep (.len (lengthField h4))) hlater hpayload hack
  rw [hrun, perform_chklen_of_le hgood, SeqRun.andThen_value]
  refine ⟨hbody.log.trans ?_, hbody.replies, hbody.out⟩
  rw [afterValue_log, State.countStep_log, hlog, List.append_assoc, List.singleton_append]

/-- No exchange of the part of `receive()` after the header READ could clear the flag of buffer 1 (R202): only READs
follow, and the BIT-MODIFY of the other flag. -/
theorem receiveBody_keeps_rx1 (skip : Bool) (idw : IdWord) (len : BitVec 4) (s : State) :
    SeqRun.SendsOnly (mayClearRx1 · = false) s (receiveBody skip (bufferDesc false) idw len s) := by
  refine sendsOnly_andThen (sendsOnly_perform rfl) fun ctrl s => sendsOnly_andThen (sendsOnly_perform rfl) fun idw s =>
    sendsOnly_andThen ?_ fun payload s => sendsOnly_andThen (sendsOnly_perform rfl) fun _ s => sendsOnly_pure _
  rw [readPayload]
  split
  · exact sendsOnly_pure _
  · exact sendsOnly_perform rfl

/-- Buffer 0's header READ comes first, whatever its answer (R192, R202). -/
theorem receiveBuffer_header_first (skip : Bool) (s : State) :
    ∃ (r : Reply) (es : List Exchange), (receiveBuffer skip (bufferDesc false) s).state.log =
        s.log ++ ⟨fRead Config.rxb0sidh 5, r⟩ :: es ∧ ∀ e ∈ es, mayClearRx1 e.tx = false := by
  obtain ⟨r, hfirst⟩ := perform_log_of_sends asBytes (i := .read Config.rxb0sidh Config.hdrLen) rfl s
  obtain ⟨es, hlog, hall⟩ : SeqRun.SendsOnly (mayClearRx1 · = false) _ (receiveBuffer skip (bufferDesc false) s) :=
    sendsOnly_of_continuation fun _ _ => sendsOnly_andThen (sendsOnly_perform rfl) fun _ _ =>
      sendsOnly_andThen (sendsOnly_perform rfl) fun _ _ => sendsOnly_andThen (sendsOnly_perform rfl) fun _ _ =>
      receiveBody_keeps_rx1 ..
  refine ⟨r, es, ?_, hall⟩
  rw [hlog]
  exact (congrArg (· ++ es) hfirst).trans (List.append_assoc ..)

end Receive

/-! ### Ending at the first failed exchange -/

theorem endsAtFailure_readPayload (skip : Bool) (d : BufferDesc) (len : BitVec 4) (s : State) :
    SeqRun.endsAtFailure s (readPayload skip d len s) := by
  rw [readPayload]
  split
  · exact endsAtFailure_pure (by simp)
  · exact endsAtFailure_perform

theorem endsAtFailure_receiveBody (skip : Bool) (d : BufferDesc) (idw : IdWord) (len : BitVec 4) (s : State) :
    SeqRun.endsAtFailure s (receiveBody skip d idw len s) :=
  endsAtFailure_andThen endsAtFailure_perform fun _ _ => endsAtFailure_andThen endsAtFailure_perform fun _ _ =>
    endsAtFailure_andThen (endsAtFailure_readPayload ..) fun _ _ => endsAtFailure_andThen endsAtFailure_perform fun _ _ =>
    endsAtFailure_pure (by simp)

theorem endsAtFailure_receiveBuffer (skip : Bool) (d : BufferDesc) (s : State) :
    SeqRun.endsAtFailure s (receiveBuffer skip d s) :=
  endsAtFailure_andThen endsAtFailure_perform fun _ _ => endsAtFailure_andThen endsAtFailure_perform fun _ _ =>
    endsAtFailure_andThen endsAtFailure_perform fun _ _ => endsAtFailure_andThen endsAtFailure_perform fun _ _ =>
    endsAtFailure_receiveBody ..

theorem endsAtFailure_receive (skip : Bool) (s : State) : SeqRun.endsAtFailure s (receive skip s) :=
  endsAtFailure_andThen endsAtFailure_perform fun st t => by
    split
    · exact endsAtFailure_receiveBuffer ..
    · exact endsAtFailure_pure (by simp)

theorem endsAtFailure_requestMode (m : Mode) (again : Nat) (s : State) :
    SeqRun.endsAtFailure s (requestMode m again s) :=
  endsAtFailure_andThen endsAtFailure_perform fun _ t => endsAtFailure_pollMode m again t

theorem endsAtFailure_writeCfg (t : Cfg) (s : State) : SeqRun.endsAtFailure s (writeCfg t s) :=
  endsAtFailure_andThen endsAtFailure_perform fun _ _ => endsAtFailure_andThen endsAtFailure_perform fun _ _ =>
    endsAtFailure_perform

theorem endsAtFailure_applyBitrate (table : BitrateTable) (again speed clock : Nat) (s : State) :
    SeqRun.endsAtFailure s (applyBitrate table again speed clock s) :=
  endsAtFailure_andThen (endsAtFailure_requestMode ..) fun _ t => by
    split
    · exact endsAtFailure_writeCfg ..
    · exact endsAtFailure_pure (by simp)

theorem endsAtFailure_writeFilter (sw : Option (Mode × Nat × Nat)) (base : Byte) (bytes : List Byte) (s : State) :
    SeqRun.endsAtFailure s (writeFilter sw base bytes s) := by
  match sw with
  | none => exact endsAtFailure_perform
  | some (previous, again1, again2) =>
    exact endsAtFailure_andThen (endsAtFailure_requestMode ..) fun _ _ =>
      endsAtFailure_andThen endsAtFailure_perform fun _ _ => endsAtFailure_requestMode ..

theorem endsAtFailure_setAt (bases : List Byte) (sw : Option (Mode × Nat × Nat)) (slot : Nat) (extended : Bool) (value : Nat)
    (s : State) : SeqRun.endsAtFailure s (setAt bases sw slot extended value s) := by
  rw [setAt]
  split
  · exact endsAtFailure_pure (by simp)
  · exact endsAtFailure_andThen endsAtFailure_perform fun _ _ => endsAtFailure_writeFilter ..

theorem endsAtFailure_runSetters (setters : List SetterCall) (s : State) :
    SeqRun.endsAtFailure s (runSetters setters s) := by
  induction setters generalizing s with
  | nil => exact endsAtFailure_pure (by simp)
  | cons c cs ih =>
    refine endsAtFailure_andThen ?_ fun _ t => ih t
    rw [SetterCall.run]
    split <;> exact endsAtFailure_setAt ..

/-- A call of the polling loop ends in a transport failure exactly when its `receive()` does (R218). -/
theorem pollOf_eq_transportFailure_iff (o : SeqOut Frame) :
    pollOf o = .ended (.error .transportFailure) ↔ o = .ended (.error .transportFailure) := by
  match o with
  | .value _ | .noOutcome => simp [pollOf]
  | .ended (.ok _) | .ended (.refusal _) => simp [pollOf]
  | .ended (.error e) => cases e <;> simp [pollOf]

theorem endsAtFailure_pollOf {s : State} {r : SeqRun Frame} (h : SeqRun.endsAtFailure s r) :
    SeqRun.endsAtFailure s ⟨r.state, pollOf r.out⟩ := by
  simpa only [SeqRun.endsAtFailure, pollOf_eq_transportFailure_iff] using h

theorem endsAtFailure_receivePolling (skip : Bool) (n : Nat) (s : State) :
    SeqRun.endsAtFailure s (receivePolling skip n s) := by
  induction n generalizing s with
  | zero => exact endsAtFailure_pure (by simp)
  | succ n ih =>
    exact endsAtFailure_andThen (endsAtFailure_pollOf (endsAtFailure_receive skip s)) fun _ t =>
      endsAtFailure_andThen (ih t) fun _ _ => endsAtFailure_pure (by simp)

theorem endsAtFailure_boot (table : BitrateTable) (again1 again2 speed clock : Nat) (setters : List SetterCall)
    (skip : Bool) (n : Nat) (s : State) :
    SeqRun.endsAtFailure s (boot table again1 again2 speed clock setters skip n s) :=
  endsAtFailure_andThen endsAtFailure_perform fun _ _ => endsAtFailure_andThen (endsAtFailure_applyBitrate ..) fun _ _ =>
    endsAtFailure_andThen (endsAtFailure_runSetters ..) fun _ _ =>
    endsAtFailure_andThen (endsAtFailure_requestMode ..) fun _ _ => endsAtFailure_receivePolling ..

/-- A failed header READ ends `receive()` (R190). -/
theorem receiveBuffer_header_failed (skip : Bool) (d : BufferDesc) {s : State} {r : Reply} {rest : List Reply}
    (hrep : s.replies = r :: rest) (hfail : failsOn (fRead d.sidh 5) r) :
    ∃ c, receiveBuffer skip d s =
      ⟨afterFailure s.countStep (fRead d.sidh 5) rest c, .ended (.error .transportFailure)⟩ := by
  obtain ⟨c, hrun⟩ := perform_failed (f := asBytes) (i := .read d.sidh Config.hdrLen) rfl hrep hfail
  exact ⟨c, by rw [receiveBuffer, hrun]; rfl⟩

/-! ### The polls of a mode request -/

section Polls

variable {m : Mode} {s : State} {rest : List Reply}

/-- A poll that does not show the mode goes on with what follows a miss (R206). -/
theorem pollOnce_miss {p : Byte × Byte × Byte} (hrep : s.replies = pollReply p :: rest) (hmiss : pollMisses m p)
    (onMiss : State → SeqRun Unit) :
    pollOnce m onMiss s = onMiss (afterExchange s.countStep (fRead Config.canstat 1) [p.1, p.2.1, p.2.2] rest
      (s.chip.readPast Config.canstat 1) (.byte p.2.2)) := by
  rw [pollOnce, perform_read1 _ hrep, SeqRun.andThen_value, if_neg hmiss]

/-- A poll that shows the mode ends the request ok (R206). -/
theorem pollOnce_hit {p : Byte × Byte × Byte} (hrep : s.replies = pollReply p :: rest) (hhit : ¬ pollMisses m p)
    (onMiss : State → SeqRun Unit) :
    SeqRun.Performs s [pollExchange p] rest (.value ()) (pollOnce m onMiss s) := by
  rw [pollOnce, perform_read1 _ hrep, SeqRun.andThen_value, if_pos (not_not.1 hhit)]
  exact .after_exchange (.pure _ rfl)

/-- Polls that all miss use up the deadline draws (R206, D25). -/
theorem pollMode_times_out {again : Nat} {polls : List (Byte × Byte × Byte)} (hcount : polls.length = again + 1)
    (hmiss : ∀ p ∈ polls, pollMisses m p) (hrep : s.replies = polls.map pollReply ++ rest) :
    SeqRun.Performs s (polls.map pollExchange) rest (.ended (.error .modeTimeout)) (pollMode m again s) := by
  induction again generalizing s polls with
  | zero =>
    obtain ⟨p, rfl⟩ := List.length_eq_one_iff.1 hcount
    rw [pollMode, pollOnce_miss hrep (hmiss p List.mem_cons_self)]
    exact .after_exchange (.pure _ rfl)
  | succ again ih =>
    obtain ⟨p, ps, rfl⟩ := List.exists_cons_of_length_eq_add_one hcount
    rw [pollMode, pollOnce_miss hrep (hmiss p List.mem_cons_self)]
    exact .after_exchange (ih (Nat.succ.inj hcount) (fun q hq => hmiss q (List.mem_cons_of_mem p hq)) rfl)

/-- A poll that shows the mode, after as many misses as the deadline draws allow (R206). -/
theorem pollMode_confirmed {again : Nat} {misses : List (Byte × Byte × Byte)} {hit : Byte × Byte × Byte}
    (hcount : misses.length ≤ again) (hmiss : ∀ p ∈ misses, pollMisses m p) (hhit : ¬ pollMisses m hit)
    (hrep : s.replies = misses.map pollReply ++ pollReply hit :: rest) :
    SeqRun.Performs s (misses.map pollExchange ++ [pollExchange hit]) rest (.value ()) (pollMode m again s) := by
  induction misses generalizing s again with
  | nil => cases again <;> exact pollOnce_hit hrep hhit _
  | cons p ps ih =>
    obtain ⟨n, rfl⟩ := Nat.exists_eq_add_one.2 (Nat.zero_lt_of_lt hcount)
    rw [pollMode, pollOnce_miss hrep (hmiss p List.mem_cons_self)]
    exact .after_exchange (ih (Nat.le_of_succ_le_succ hcount) (fun q hq => hmiss q (List.mem_cons_of_mem p hq)) rfl)

/-- A mode request performs its BIT-MODIFY and then its polls (R206). -/
theorem requestMode_performs {again : Nat} {ack : List Byte} {es : List Exchange} {later : List Reply} {o : SeqOut Unit}
    (hrep : s.replies = .bytes ack :: later) (hack : ack.length = 4)
    (hpolls : ∀ t, t.replies = later → SeqRun.Performs t es rest o (pollMode m again t)) :
    SeqRun.Performs s (⟨fBitmod Config.canctrl Config.modeMask (modeByte m), .bytes ack⟩ :: es) rest o
      (requestMode m again s) := by
  rw [requestMode, setMode, perform_bitmod _ _ _ hrep hack, SeqRun.andThen_value]
  exact .after_exchange (hpolls _ rfl)

end Polls

/-! ### Bitrate -/

/-- The three configuration registers in their order (R210). -/
theorem writeCfg_performs (t : Cfg) {s : State} {a b c : List Byte} {rest : List Reply}
    (hrep : s.replies = .bytes a :: .bytes b :: .bytes c :: rest) (ha : a.length = 3) (hb : b.length = 3)
    (hc : c.length = 3) :
    SeqRun.Performs s [⟨fWrite Config.cnf1 [t.cfg1], .bytes a⟩, ⟨fWrite Config.cnf2 [t.cfg2], .bytes b⟩,
      ⟨fWrite Config.cnf3 [t.cfg3], .bytes c⟩] rest (.value ()) (writeCfg t s) := by
  rw [writeCfg, perform_write1 _ _ hrep ha, SeqRun.andThen_value, perform_write1 _ _ (afterExchange_replies ..) hb,
    SeqRun.andThen_value, perform_write1 _ _ (afterExchange_replies ..) hc]
  exact .after_exchange (.after_exchange (.after_exchange (.pure _ rfl)))

/-! ### Setters -/

/-- The header bytes of an identifier in its format (R94). -/
def encodedBytes (extended : Bool) (id : Nat) : List Byte := if extended then encodeExt id else encodeStd id

/-- The identifiers of a format (R162, R164). -/
def idBound (extended : Bool) : Nat := if extended then 2 ^ 29 else 2 ^ 11

theorem perform_encidInstr_of_lt {extended : Bool} {id : Nat} (h : id < idBound extended) (s : State) :
    perform asBytes (encidInstr extended id) s =
      ⟨afterValue s.countStep (.bytes (encodedBytes extended id)), .value (encodedBytes extended id)⟩ := by
  cases extended with
  | false => exact perform_value (exec_encidStd_of_lt h _) rfl
  | true => exact perform_value (exec_encidExt_of_lt h _) rfl

theorem perform_encidInstr_of_ge {extended : Bool} {id : Nat} (h : idBound extended ≤ id) (s : State) :
    perform asBytes (encidInstr extended id) s =
      ⟨afterRefusal s.countStep .idOutOfRange, .ended (.refusal .idOutOfRange)⟩ := by
  cases extended with
  | false => exact perform_of_exec (exec_encidStd_of_ge h _)
  | true => exact perform_of_exec (exec_encidExt_of_ge h _)

/-- An index off the list ends the setter with the state untouched (R214, R233). -/
theorem setAt_invalid {bases : List Byte} {slot : Nat} (h : bases.length ≤ slot) (sw : Option (Mode × Nat × Nat))
    (extended : Bool) (value : Nat) (s : State) :
    setAt bases sw slot extended value s = ⟨s, .ended (.error .invalidIndex)⟩ := by
  rw [setAt, List.getElem?_eq_none h]

/-- A setter with a base encodes its identifier and goes on with the WRITE (R214; log entry 23). -/
theorem setAt_of_base {bases : List Byte} {slot : Nat} {base : Byte} (h : bases[slot]? = some base)
    (sw : Option (Mode × Nat × Nat)) (extended : Bool) (value : Nat) (s : State) :
    setAt bases sw slot extended value s = (perform asBytes (encidInstr extended value) s).andThen fun bytes t =>
      writeFilter sw base bytes t := by
  rw [setAt, h]

section SetterCalls

variable {c : SetterCall} {base : Byte}
  (hbase : (if c.mask then Config.maskBases else Config.filterBases)[c.slot]? = some base)

include hbase

/-- A setter call with a base encodes its identifier and goes on with the WRITE (R214; log entry 23). -/
theorem run_of_base (s : State) :
    c.run s = (perform asBytes (encidInstr c.extended c.value) s).andThen fun bytes t =>
      writeFilter c.modeSwitch base bytes t := by
  obtain ⟨mask, slot, extended, value, sw⟩ := c
  cases mask with
  | false | true => exact setAt_of_base hbase sw extended value s

/-- An identifier out of its format's range ends the setter with its refusal (R166). -/
theorem run_of_ge (hwide : idBound c.extended ≤ c.value) (s : State) :
    c.run s = ⟨afterRefusal s.countStep .idOutOfRange, .ended (.refusal .idOutOfRange)⟩ := by
  rw [run_of_base hbase, perform_encidInstr_of_ge hwide, SeqRun.andThen_ended]

/-- An identifier in its format's range is written (R214). -/
theorem run_of_lt (hid : c.value < idBound c.extended) (s : State) :
    c.run s = writeFilter c.modeSwitch base (encodedBytes c.extended c.value)
      (afterValue s.countStep (.bytes (encodedBytes c.extended c.value))) := by
  rw [run_of_base hbase, perform_encidInstr_of_lt hid, SeqRun.andThen_value]

end SetterCalls

/-- The WRITE of an encoded identifier (R214). -/
theorem perform_write_encoded (base : Byte) (extended : Bool) (id : Nat) {s : State} {rx : List Byte} {rest : List Reply}
    (hrep : s.replies = .bytes rx :: rest) (hlen : rx.length = 6) :
    perform asUnit (.write base (encodedBytes extended id)) s =
      ⟨afterExchange s.countStep (fWrite base (encodedBytes extended id)) rx rest
        (s.chip.write base (encodedBytes extended id)) .unit, .value ()⟩ := by
  cases extended <;> exact perform_write base rfl hrep hlen

/-! ### The obligations -/

/-- Settles O47: no buffer is chosen, and the run ends in the state after READ-STATUS. -/
theorem receiveWithoutFlagEndsAfterOneExchange : Obligations.ReceiveWithoutFlagEndsAfterOneExchange := by
  unfold Obligations.ReceiveWithoutFlagEndsAfterOneExchange
  intro skip s x st rest hrep h0 h1
  rw [receive, perform_rdstat hrep, SeqRun.andThen_value, selectBuffer_of_no_flag h0 h1]
  rfl

/-- Settles O48: the length check ends the run after the header READ, and a READ leaves the registers. -/
theorem receiveOfAMalformedLengthSendsTwoExchanges : Obligations.ReceiveOfAMalformedLengthSendsTwoExchanges := by
  unfold Obligations.ReceiveOfAMalformedLengthSendsTwoExchanges
  intro skip s x st y z h0 h1 h2 h3 h4 rest b hrep hflag0 hflag1 hlong
  rw [← lengthField_toNat_eq_and] at hlong
  obtain ⟨t, hrun, hchip, hlog⟩ := receiveBuffer_malformed skip (bufferDesc b)
    (s := afterExchange s.countStep fReadStatus [x, st] _ s.chip (.byte st)) rfl hlong
  rw [receive_of_flags hrep hflag0 hflag1, hrun]
  refine ⟨rfl, hlog.trans (List.append_assoc ..), fun a => ?_⟩
  rw [hchip, Chip.readPast_register]
  rfl

/-- Settles O49: the good frame around the payload step, which is a READ or, for an empty frame, nothing. -/
theorem receiveDeliversTheFrame : Obligations.ReceiveDeliversTheFrame := by
  unfold Obligations.ReceiveDeliversTheFrame
  intro s x st y z h0 h1 h2 h3 h4 u v ctrl ack rest later b hrep hflag0 hflag1 hgood hack
  simp only [← lengthField_toNat_eq_and] at hgood ⊢
  constructor
  · rintro skip p q payload rfl hlen hread
    obtain ⟨hlog, hreplies, hout⟩ := receive_performs hrep hflag0 hflag1 fun t ht =>
      receiveBuffer_delivers ht hgood (fun _ hu => readPayload_reads hlen hgood hread hu) hack
    exact ⟨⟨_, hout, receivedWord_toNat .., hlen.symm, rfl⟩, hreplies, by rw [hlog, List.map_append]; rfl⟩
  · rintro rfl hlen
    have hzero : lengthField h4 = 0 := BitVec.eq_of_toNat_eq hlen
    obtain ⟨hlog, hreplies, hout⟩ := receive_performs hrep hflag0 hflag1 fun t ht =>
      receiveBuffer_delivers ht hgood (fun _ hu => readPayload_skips hzero hu) hack
    exact ⟨⟨_, hout, receivedWord_toNat .., hlen, rfl⟩, hreplies, by rw [hlog, List.map_append]; rfl⟩

/-- Settles O50: buffer 0 is chosen, its header READ is next, and what follows cannot clear the other flag. -/
theorem receiveTakesBufferZeroFirst : Obligations.ReceiveTakesBufferZeroFirst := by
  unfold Obligations.ReceiveTakesBufferZeroFirst
  intro skip s x st rest hrep hflag
  rw [receive_of_flags (b := false) hrep hflag Bool.noConfusion]
  obtain ⟨r, es, hlog, hall⟩ := receiveBuffer_header_first skip
    (afterExchange s.countStep fReadStatus [x, st] rest s.chip (.byte st))
  exact ⟨r, es, hlog.trans (List.append_assoc ..), hall⟩

/-- Settles O51: each sequence is put together from operations that end at their first failed exchange. -/
theorem hostSequencesEndAtAFailedExchange : Obligations.HostSequencesEndAtAFailedExchange := by
  unfold Obligations.HostSequencesEndAtAFailedExchange
  refine ⟨fun s => ⟨fun _ => endsAtFailure_receive .., fun _ _ => endsAtFailure_requestMode ..,
    fun _ _ _ _ => endsAtFailure_applyBitrate .., fun _ _ _ _ => ⟨endsAtFailure_setAt .., endsAtFailure_setAt ..⟩,
    endsAtFailure_perform, fun _ _ _ _ _ _ _ _ => endsAtFailure_boot ..⟩, ?_⟩
  intro skip s x st r rest b hrep hflag0 hflag1 hfail
  obtain ⟨c, hrun⟩ := receiveBuffer_header_failed skip (bufferDesc b)
    (s := afterExchange s.countStep fReadStatus [x, st] _ s.chip (.byte st)) rfl hfail
  rw [receive_of_flags hrep hflag0 hflag1, hrun]
  exact ⟨rfl, rfl, rfl, List.append_assoc ..⟩

/-- Settles O52: the BIT-MODIFY of the mode field, then polls that all miss. -/
theorem unconfirmedModeRequestTimesOutAfterItsPolls : Obligations.UnconfirmedModeRequestTimesOutAfterItsPolls := by
  unfold Obligations.UnconfirmedModeRequestTimesOutAfterItsPolls
  intro m again s ack polls rest hack hcount hmiss hrep
  have hrun := requestMode_performs hrep hack fun _ ht => pollMode_times_out hcount hmiss ht
  exact ⟨hrun.out, hrun.log⟩

/-- Settles O53: the BIT-MODIFY of the mode field, then the misses and the poll that shows the mode. -/
theorem confirmedModeRequestEndsOk : Obligations.ConfirmedModeRequestEndsOk := by
  unfold Obligations.ConfirmedModeRequestEndsOk
  intro m again s ack misses hit rest hack hcount hmiss hhit hrep
  have hrun := requestMode_performs hrep hack fun _ ht => pollMode_confirmed hcount hmiss hhit ht
  exact ⟨hrun.out, hrun.replies, hrun.log⟩

/-- Settles O55: what follows the mode request leaves the state and ends in Unsupported. -/
theorem unsupportedBitrateWritesNoConfiguration : Obligations.UnsupportedBitrateWritesNoConfiguration := by
  unfold Obligations.UnsupportedBitrateWritesNoConfiguration
  intro table again speed clock s hnone
  rw [applyBitrate, hnone]
  refine ⟨SeqRun.andThen_state fun _ _ => rfl, fun hok => ?_⟩
  rw [SeqRun.andThen_of_value hok]

/-- Settles O56: the table's entry is the required one, and its three bytes are written. -/
theorem admittedBitrateIsWrittenAfterTheModeRequest : Obligations.AdmittedBitrateIsWrittenAfterTheModeRequest := by
  unfold Obligations.AdmittedBitrateIsWrittenAfterTheModeRequest
  intro table again s a b c rest htable hok hrep ha hb hc
  have hentry : lookupBitrate table 16000000 1000000 = some ⟨0x00, 0xD0, 0x82⟩ := of_decide_eq_true htable
  have hrun := writeCfg_performs ⟨0x00, 0xD0, 0x82⟩ hrep ha hb hc
  rw [applyBitrate, SeqRun.andThen_of_value hok, hentry]
  exact ⟨hrun.out, hrun.log⟩

/-- Settles O58: the setter encodes the identifier, which is refused out of its range, and goes on with the WRITE of the
four bytes, alone or between the two mode requests. -/
theorem settersWriteTheEncodedIdentifier : Obligations.SettersWriteTheEncodedIdentifier := by
  unfold Obligations.SettersWriteTheEncodedIdentifier
  intro mask slot id extended base s hbase
  dsimp only
  rw [← encodedBytes]
  refine ⟨fun hwide sw => run_of_ge (c := ⟨mask, slot, extended, id, sw⟩) hbase hwide s, fun hid => ?_⟩
  have hrun (sw : Option (Mode × Nat × Nat)) : SetterCall.run ⟨mask, slot, extended, id, sw⟩ s =
      writeFilter sw base (encodedBytes extended id) (afterValue s.countStep (.bytes (encodedBytes extended id))) :=
    run_of_lt hbase hid s
  refine ⟨fun rx rest hrep hlen => ?_, fun previous again1 again2 => ⟨fun hnot => ?_, fun rx rest hok hrep hlen => ?_⟩⟩
  · rw [hrun, writeFilter, perform_write_encoded base extended id (s := afterValue s.countStep _) hrep hlen]
    exact ⟨rfl, rfl, rfl⟩
  · rw [hrun, writeFilter]
    exact SeqRun.andThen_of_ne_value (fun _ => hnot) _
  · rw [hrun, writeFilter, SeqRun.andThen_of_value hok, perform_write_encoded base extended id hrep hlen]
    exact ⟨_, rfl, rfl, rfl⟩

/-- Settles O57: the lists of bases have six and two entries. -/
theorem invalidFilterIndexTouchesNothing : Obligations.InvalidFilterIndexTouchesNothing := by
  unfold Obligations.InvalidFilterIndexTouchesNothing
  exact fun sw slot extended value s =>
    ⟨fun h => setAt_invalid h sw extended value s, fun h => setAt_invalid h sw extended value s⟩

/-- Settles O59: RESET sends its opcode, whatever the answer, and its exchange is completed or failed. -/
theorem hostResetIsOneReset : Obligations.HostResetIsOneReset := by
  unfold Obligations.HostResetIsOneReset
  intro s
  obtain ⟨r, hlog⟩ := perform_log_of_sends asUnit (i := .reset) rfl s
  refine ⟨r, hlog, ?_⟩
  cases hr : acceptReply fReset (oracleReply fReset s.countStep) with
  | failed =>
    rw [hostReset, perform_of_exec ((exec_reset _).trans (command_fails _ _ hr))]
    exact .inr rfl
  | bytes rx =>
    rw [hostReset, perform_of_exec ((exec_reset _).trans (command_exchanges _ _ hr))]
    exact .inl rfl

end Sys2Proof.Machine

/-! Proofs for 60_exceptions: the refusals, and the codes of the outcomes. What an operation with a refusal reason does is
`exec_of_refusalOf`; the ends of every other operation are those of `OpEnd`, the refusal left out. -/

namespace Sys2Proof.Machine

/-! ### Which operations are refused -/

/-- An operation that is not refused leaves the refusal mark, and its outcome is no refusal (R235). -/
theorem OpEnd.keeps_refused {i : Instr} {s t : State} (h : OpEnd i s t) (hr : refusalOf i = none) :
    t.refused = s.refused ∧ ∀ r, t.result ≠ some (.refusal r) := by
  cases h with
  | exchange | failure => exact ⟨rfl, fun _ => nofun⟩
  | refusal _ hsome => simp [hr] at hsome
  | outcome _ _ ho => exact ⟨rfl, fun r heq => ho r (Option.some.inj heq)⟩

/-- A header of any length but 5 is refused by DECID (R235). -/
theorem refusalOf_decid_of_length_ne {hdr : List Byte} (h : hdr.length ≠ 5) :
    refusalOf (.decid hdr) = some .headerLength :=
  if_neg h

/-- A length above 15 is refused by CHKLEN (R235). -/
theorem refusalOf_chklen_of_gt {len : Byte} (h : 15 < len.toNat) : refusalOf (.chklen len) = some .operandRange :=
  if_pos h

/-! ### The obligations -/

/-- Settles O35: a refusal reason is the operation's whole effect, and without one three of the four ends remain. -/
theorem refusalsComeBeforeAnyExchange : Obligations.RefusalsComeBeforeAnyExchange := by
  unfold Obligations.RefusalsComeBeforeAnyExchange
  intro i s
  refine ⟨fun r hr => exec_of_refusalOf hr s, fun hr => ?_⟩
  obtain ⟨t, hexec, hend⟩ := exec_ends i s
  exact ⟨t, hexec, hend.keeps_refused hr⟩

/-- Settles O22: an operand outside its field is a refusal reason. -/
theorem codecOperandsOutsideTheirFieldAreRefused : Obligations.CodecOperandsOutsideTheirFieldAreRefused := by
  unfold Obligations.CodecOperandsOutsideTheirFieldAreRefused
  exact fun s _ _ => ⟨fun hlen => exec_of_refusalOf (refusalOf_decid_of_length_ne hlen) s,
    fun hlen => exec_of_refusalOf (refusalOf_chklen_of_gt hlen) s⟩

/-- Settles O60: the table of `outcomeCode`, row by row. -/
theorem outcomeCodesAreThoseOfTheTable : Obligations.OutcomeCodesAreThoseOfTheTable := by
  unfold Obligations.OutcomeCodesAreThoseOfTheTable
  exact ⟨fun _ => rfl, rfl, rfl, rfl, rfl, rfl, rfl, rfl, rfl, rfl, rfl, rfl, rfl⟩

end Sys2Proof.Machine

/-! Proofs for 70_reset_and_hazards: the record at reset. -/

namespace Sys2Proof.Machine

/-- The record at reset is sound: no entry in the log, no fault mark, no register stored to (R260; log entries 5 and 6). -/
theorem inv_reset : State.reset.inv = true := by
  refine State.inv_iff.2 ⟨?_, ?_, ?_⟩
  · exact List.forall_mem_nil _
  · exact (List.any_nil (f := Exchange.isFailed)).symm
  · exact Memory.wf_nil

/-! ### The obligations -/

/-- Settles O40: the empty log and the two unset marks are reset's own fields, and the record is sound by `inv_reset`. -/
theorem resetLeavesAnEmptySoundRecord : Obligations.ResetLeavesAnEmptySoundRecord := by
  unfold Obligations.ResetLeavesAnEmptySoundRecord
  exact ⟨rfl, rfl, rfl, inv_reset⟩

end Sys2Proof.Machine

/-! Proofs for the step where it performs no operation: the empty port and the bytes that are no request. Together with O6
they say what the step does in every state. -/

namespace Sys2Proof.Machine

/-- With no request waiting the step leaves the state as it is (log entry 13). -/
theorem step_of_no_request {s : State} (hreq : s.requests = []) : step s = .next s := by
  rw [step, takeRequest_nil hreq]

/-- Bytes that are no request are refused, with the decoder's reason (log entry 14). -/
theorem step_of_undecodable {s : State} {r : List Byte} {rest : List (List Byte)} {why : DecodeError}
    (hreq : s.requests = r :: rest) (hdec : decode r = .error why) : step s = .refused (.undecodable why) := by
  simp only [step, takeRequest_cons hreq, runRequest, hdec]

/-! ### The obligations -/

/-- Settles O7: the port is empty, or the request at its head has no operation. -/
theorem stepRefusesUndecodableBytesAndWaitsWithoutRequest :
    Obligations.StepRefusesUndecodableBytesAndWaitsWithoutRequest := by
  unfold Obligations.StepRefusesUndecodableBytesAndWaitsWithoutRequest
  exact fun _ => ⟨step_of_no_request, fun _ _ _ => step_of_undecodable⟩

end Sys2Proof.Machine
